-- ==== Sys2Proof/Word.lean ====
section
/-! DEFINITION. The widths of the machine: bytes, 16-bit words, register and key numbers (spec rules R6, R20, R24, R25). -/

namespace Sys2Proof

/-- The unit of memory and the width of `V[i]`, `DT`, `ST` (rules R20, R28, R60). -/
abbrev Byte := BitVec 8

/-- An instruction word, `I`, `pc` and a call-stack entry (rules R24, R25, R26, R90). -/
abbrev Word16 := BitVec 16

/-- A general-register number 0 .. 15, as the 4-bit fields `x` and `y` name it (rules R20, R93). -/
abbrev Reg := Fin 16

/-- A key number 0 .. 15 (rule R256). -/
abbrev Key := Fin 16

end Sys2Proof
end

