-- ==== Sys2Proof/Decode.lean ====
section
/-! DEFINITION. The decoder, total on any bytes, rejecting by name (rules R90 to R97), then the encoder written from the
same tables (rules R92, R93, R96), the opcode table itself as data, and the host's view of the decoder. -/

namespace Sys2Proof

/-! ## Cutting a word into fields (rules R91, R93) -/

/-- Rule R65: the byte at the lower address is bits 15:8 of the instruction word. -/
def joinBytes (hi lo : Byte) : Word16 := hi ++ lo

/-- Bits 15:8 of a word. -/
def highByte (w : Word16) : Byte := w.extractLsb' 8 8

/-- Bits 7:0 of a word. -/
def lowByte (w : Word16) : Byte := w.extractLsb' 0 8

/-- `a = w[15:12]`, the opcode family (rule R91). -/
def nibbleA (w : Word16) : BitVec 4 := w.extractLsb' 12 4

/-- `b = w[11:8]` (rule R91). -/
def nibbleB (w : Word16) : BitVec 4 := w.extractLsb' 8 4

/-- `c = w[7:4]` (rule R91). -/
def nibbleC (w : Word16) : BitVec 4 := w.extractLsb' 4 4

/-- `d = w[3:0]` (rule R91). -/
def nibbleD (w : Word16) : BitVec 4 := w.extractLsb' 0 4

/-- `x = b`, a register number (rule R93). -/
def fieldX (w : Word16) : Reg := (nibbleB w).toFin

/-- `y = c`, a register number (rule R93). -/
def fieldY (w : Word16) : Reg := (nibbleC w).toFin

/-- `n = d`, a count of sprite rows (rule R93). -/
def fieldN (w : Word16) : Nat := (nibbleD w).toNat

/-- `kk = w[7:0]` (rule R93). -/
def fieldKK (w : Word16) : Byte := lowByte w

/-- `nnn = w[11:0]` (rule R93). -/
def fieldNNN (w : Word16) : BitVec 12 := w.extractLsb' 0 12

/-! ## Decoding (rules R94, R95, R97) -/

/-- Why bytes name no instruction. -/
inductive DecodeError where
  /-- Fewer than the two bytes of an instruction word (rule R90). -/
  | truncated
  /-- The word matches no row of the opcode table (rule R97). -/
  | illegal (w : Word16)
  deriving DecidableEq, Repr

/-- Family 0x8: the low nibble selects the operation (rules R95, R96 rows 10 to 18). -/
def decodeAlu (w : Word16) : Except DecodeError Instr :=
  match (nibbleD w).toNat with
  | 0x0 => .ok (.ldReg (fieldX w) (fieldY w))
  | 0x1 => .ok (.orReg (fieldX w) (fieldY w))
  | 0x2 => .ok (.andReg (fieldX w) (fieldY w))
  | 0x3 => .ok (.xorReg (fieldX w) (fieldY w))
  | 0x4 => .ok (.addReg (fieldX w) (fieldY w))
  | 0x5 => .ok (.subReg (fieldX w) (fieldY w))
  | 0x6 => .ok (.shr (fieldX w) (fieldY w))
  | 0x7 => .ok (.subnReg (fieldX w) (fieldY w))
  | 0xE => .ok (.shl (fieldX w) (fieldY w))
  | _ => .error (.illegal w)

/-- Family 0xE: the low byte selects the operation (rules R95, R96 rows 24, 25). -/
def decodeKey (w : Word16) : Except DecodeError Instr :=
  match (fieldKK w).toNat with
  | 0x9E => .ok (.skp (fieldX w))
  | 0xA1 => .ok (.sknp (fieldX w))
  | _ => .error (.illegal w)

/-- Family 0xF: the low byte selects the operation (rules R95, R96 rows 26 to 34). -/
def decodeMisc (w : Word16) : Except DecodeError Instr :=
  match (fieldKK w).toNat with
  | 0x07 => .ok (.ldVxDT (fieldX w))
  | 0x0A => .ok (.ldVxK (fieldX w))
  | 0x15 => .ok (.ldDTVx (fieldX w))
  | 0x18 => .ok (.ldSTVx (fieldX w))
  | 0x1E => .ok (.addI (fieldX w))
  | 0x29 => .ok (.ldF (fieldX w))
  | 0x33 => .ok (.ldB (fieldX w))
  | 0x55 => .ok (.storeRegs (fieldX w))
  | 0x65 => .ok (.loadRegs (fieldX w))
  | _ => .error (.illegal w)

/-- Decode one instruction word: the tree of rule R95, total on all 65536 words (rule R94). -/
def decodeWord (w : Word16) : Except DecodeError Instr :=
  match (nibbleA w).toNat with
  | 0x0 => if w = 0x00E0#16 then .ok .cls else if w = 0x00EE#16 then .ok .ret else .error (.illegal w)
  | 0x1 => .ok (.jp (fieldNNN w))
  | 0x2 => .ok (.call (fieldNNN w))
  | 0x3 => .ok (.seImm (fieldX w) (fieldKK w))
  | 0x4 => .ok (.sneImm (fieldX w) (fieldKK w))
  | 0x5 => if (nibbleD w).toNat = 0 then .ok (.seReg (fieldX w) (fieldY w)) else .error (.illegal w)
  | 0x6 => .ok (.ldImm (fieldX w) (fieldKK w))
  | 0x7 => .ok (.addImm (fieldX w) (fieldKK w))
  | 0x8 => decodeAlu w
  | 0x9 => if (nibbleD w).toNat = 0 then .ok (.sneReg (fieldX w) (fieldY w)) else .error (.illegal w)
  | 0xA => .ok (.ldI (fieldNNN w))
  | 0xB => .ok (.jpV0 (fieldNNN w))
  | 0xC => .ok (.rnd (fieldX w) (fieldKK w))
  | 0xD => .ok (.drw (fieldX w) (fieldY w) (fieldN w))
  | 0xE => decodeKey w
  | _ => decodeMisc w

/-- Decode the instruction at the front of a byte sequence, high byte first (rules R65, R90), and give the rest. -/
def decode : List Byte → Except DecodeError (Instr × List Byte)
  | hi :: lo :: rest =>
    match decodeWord (joinBytes hi lo) with
    | .ok i => .ok (i, rest)
    | .error e => .error e
  | _ => .error .truncated

/-! ## Encoding (the formats of rule R92) -/

/-- The 4-bit field that names a register. -/
def regBits (r : Reg) : BitVec 4 := BitVec.ofFin r

/-- Format FA: family and 12-bit address. -/
def formatFA (a : BitVec 4) (nnn : BitVec 12) : Word16 := a ++ nnn

/-- Format FXK: family, register, byte. -/
def formatFXK (a : BitVec 4) (x : Reg) (kk : Byte) : Word16 := a ++ regBits x ++ kk

/-- Formats FXY and FXYN: family, two registers, low nibble (a fixed `d`, or the count `n`). -/
def formatFXY (a : BitVec 4) (x y : Reg) (d : BitVec 4) : Word16 := a ++ regBits x ++ regBits y ++ d

/-- The word of an instruction: the fixed bits of its row (rule R96) with its operands in their fields (rule R93). An
ill-formed sprite count is cut to its field. -/
def encode : Instr → Word16
  | .cls => 0x00E0#16
  | .ret => 0x00EE#16
  | .jp nnn => formatFA 0x1 nnn
  | .call nnn => formatFA 0x2 nnn
  | .seImm x kk => formatFXK 0x3 x kk
  | .sneImm x kk => formatFXK 0x4 x kk
  | .seReg x y => formatFXY 0x5 x y 0x0
  | .ldImm x kk => formatFXK 0x6 x kk
  | .addImm x kk => formatFXK 0x7 x kk
  | .ldReg x y => formatFXY 0x8 x y 0x0
  | .orReg x y => formatFXY 0x8 x y 0x1
  | .andReg x y => formatFXY 0x8 x y 0x2
  | .xorReg x y => formatFXY 0x8 x y 0x3
  | .addReg x y => formatFXY 0x8 x y 0x4
  | .subReg x y => formatFXY 0x8 x y 0x5
  | .shr x y => formatFXY 0x8 x y 0x6
  | .subnReg x y => formatFXY 0x8 x y 0x7
  | .shl x y => formatFXY 0x8 x y 0xE
  | .sneReg x y => formatFXY 0x9 x y 0x0
  | .ldI nnn => formatFA 0xA nnn
  | .jpV0 nnn => formatFA 0xB nnn
  | .rnd x kk => formatFXK 0xC x kk
  | .drw x y n => formatFXY 0xD x y (BitVec.ofNat 4 n)
  | .skp x => formatFXK 0xE x 0x9E
  | .sknp x => formatFXK 0xE x 0xA1
  | .ldVxDT x => formatFXK 0xF x 0x07
  | .ldVxK x => formatFXK 0xF x 0x0A
  | .ldDTVx x => formatFXK 0xF x 0x15
  | .ldSTVx x => formatFXK 0xF x 0x18
  | .addI x => formatFXK 0xF x 0x1E
  | .ldF x => formatFXK 0xF x 0x29
  | .ldB x => formatFXK 0xF x 0x33
  | .storeRegs x => formatFXK 0xF x 0x55
  | .loadRegs x => formatFXK 0xF x 0x65

/-- The two bytes of an instruction as memory holds them, high byte first (rules R65, R90). -/
def encodeBytes (i : Instr) : List Byte := [highByte (encode i), lowByte (encode i)]

/-! ## The opcode table as data (rule R96) -/

/-- A row of rule R96: the word `w` selects the row when `w & mask = pattern`. -/
structure OpcodeRow where
  mnemonic : String
  mask : Word16
  pattern : Word16
  deriving DecidableEq, Repr

/-- The 34 rows of rule R96, in the table's order and under the table's mnemonics. -/
def opcodeRows : List OpcodeRow :=
  [⟨"CLS", 0xFFFF, 0x00E0⟩, ⟨"RET", 0xFFFF, 0x00EE⟩, ⟨"JP_nnn", 0xF000, 0x1000⟩,
    ⟨"CALL_nnn", 0xF000, 0x2000⟩, ⟨"SE_Vx__kk", 0xF000, 0x3000⟩, ⟨"SNE_Vx__kk", 0xF000, 0x4000⟩,
    ⟨"SE_Vx__Vy", 0xF00F, 0x5000⟩, ⟨"LD_Vx__kk", 0xF000, 0x6000⟩, ⟨"ADD_Vx__kk", 0xF000, 0x7000⟩]
  ++ [⟨"LD_Vx__Vy", 0xF00F, 0x8000⟩, ⟨"OR_Vx__Vy", 0xF00F, 0x8001⟩, ⟨"AND_Vx__Vy", 0xF00F, 0x8002⟩,
    ⟨"XOR_Vx__Vy", 0xF00F, 0x8003⟩, ⟨"ADD_Vx__Vy", 0xF00F, 0x8004⟩, ⟨"SUB_Vx__Vy", 0xF00F, 0x8005⟩,
    ⟨"SHR_Vx__Vy", 0xF00F, 0x8006⟩, ⟨"SUBN_Vx__Vy", 0xF00F, 0x8007⟩, ⟨"SHL_Vx__Vy", 0xF00F, 0x800E⟩,
    ⟨"SNE_Vx__Vy", 0xF00F, 0x9000⟩]
  ++ [⟨"LD_I__nnn", 0xF000, 0xA000⟩, ⟨"JP_V0__nnn", 0xF000, 0xB000⟩, ⟨"RND_Vx__kk", 0xF000, 0xC000⟩,
    ⟨"DRW_Vx__Vy__n", 0xF000, 0xD000⟩, ⟨"SKP_Vx", 0xF0FF, 0xE09E⟩, ⟨"SKNP_Vx", 0xF0FF, 0xE0A1⟩]
  ++ [⟨"LD_Vx__DT", 0xF0FF, 0xF007⟩, ⟨"LD_Vx__K", 0xF0FF, 0xF00A⟩, ⟨"LD_DT__Vx", 0xF0FF, 0xF015⟩,
    ⟨"LD_ST__Vx", 0xF0FF, 0xF018⟩, ⟨"ADD_I__Vx", 0xF0FF, 0xF01E⟩, ⟨"LD_F__Vx", 0xF0FF, 0xF029⟩,
    ⟨"LD_B__Vx", 0xF0FF, 0xF033⟩, ⟨"LD__I___Vx", 0xF0FF, 0xF055⟩, ⟨"LD_Vx___I", 0xF0FF, 0xF065⟩]

/-- Does the word select the row? (rule R94) -/
def OpcodeRow.selects (row : OpcodeRow) (w : Word16) : Bool := decide (w &&& row.mask = row.pattern)

/-- The table's mnemonic of each instruction (rules R96, R100). -/
def Instr.mnemonic : Instr → String
  | .cls => "CLS"
  | .ret => "RET"
  | .jp _ => "JP_nnn"
  | .call _ => "CALL_nnn"
  | .seImm _ _ => "SE_Vx__kk"
  | .sneImm _ _ => "SNE_Vx__kk"
  | .seReg _ _ => "SE_Vx__Vy"
  | .ldImm _ _ => "LD_Vx__kk"
  | .addImm _ _ => "ADD_Vx__kk"
  | .ldReg _ _ => "LD_Vx__Vy"
  | .orReg _ _ => "OR_Vx__Vy"
  | .andReg _ _ => "AND_Vx__Vy"
  | .xorReg _ _ => "XOR_Vx__Vy"
  | .addReg _ _ => "ADD_Vx__Vy"
  | .subReg _ _ => "SUB_Vx__Vy"
  | .shr _ _ => "SHR_Vx__Vy"
  | .subnReg _ _ => "SUBN_Vx__Vy"
  | .shl _ _ => "SHL_Vx__Vy"
  | .sneReg _ _ => "SNE_Vx__Vy"
  | .ldI _ => "LD_I__nnn"
  | .jpV0 _ => "JP_V0__nnn"
  | .rnd _ _ => "RND_Vx__kk"
  | .drw _ _ _ => "DRW_Vx__Vy__n"
  | .skp _ => "SKP_Vx"
  | .sknp _ => "SKNP_Vx"
  | .ldVxDT _ => "LD_Vx__DT"
  | .ldVxK _ => "LD_Vx__K"
  | .ldDTVx _ => "LD_DT__Vx"
  | .ldSTVx _ => "LD_ST__Vx"
  | .addI _ => "ADD_I__Vx"
  | .ldF _ => "LD_F__Vx"
  | .ldB _ => "LD_B__Vx"
  | .storeRegs _ => "LD__I___Vx"
  | .loadRegs _ => "LD_Vx___I"

/-! ## The host's view -/

/-- The instruction word the host names by a row's bits: its low `nbits` bits are `w`'s, the bits above are 0. -/
def tableWord (nbits w : Nat) : Word16 := BitVec.ofNat 16 (w % 2 ^ nbits)

/-- The instruction the decoder reads from the word laid out as memory holds it; none where it refuses. -/
def decodeTableWord (nbits w : Nat) : Option Instr :=
  match decode [highByte (tableWord nbits w), lowByte (tableWord nbits w)] with
  | .ok (i, _) => some i
  | .error _ => none

end Sys2Proof
end

