-- ==== Sys2Proof/Config.lean ====
section
/-! DEFINITION. What an implementation fixes (the build-time constants of rule R4, at their canonical values, and the
open parameter SHIFT_SOURCE of rule R5) and the values no rule determines: the key state, the key choice and the random
byte (rules R5, R35, R127). Every open value is an opaque constant without a body, so nothing can be proved of its value. -/

namespace Sys2Proof.Config

/-- `MEMSIZE` (rule R4): bytes of memory. -/
def memSize : Nat := 4096

/-- `LOAD_OFFSET` (rule R4): address of the first program byte and reset value of `pc`. -/
def loadOffset : Nat := 0x200

/-- `FONT_OFFSET` (rule R4): address of the first font byte. -/
def fontOffset : Nat := 0x50

/-- `FONT_GLYPHS` (rule R4). -/
def fontGlyphs : Nat := 16

/-- `FONT_GLYPH_BYTES` (rule R4). -/
def fontGlyphBytes : Nat := 5

/-- `SCREEN_WIDTH` (rule R4): pixel columns. -/
abbrev screenWidth : Nat := 64

/-- `SCREEN_HEIGHT` (rule R4): pixel rows. -/
abbrev screenHeight : Nat := 32

/-- `INSTRUCTION_FREQUENCY` (rule R4), in Hz. -/
def instructionFrequency : Nat := 600

/-- `SCREEN_REFRESH_RATE` (rule R4), in Hz. -/
def screenRefreshRate : Nat := 60

/-- `STEPS_PER_FRAME`, the floor of the quotient (rules R4, R232): 10. -/
def stepsPerFrame : Nat := instructionFrequency / screenRefreshRate

/-- `NUM_REGISTERS` (rule R4). -/
abbrev numRegisters : Nat := 16

/-- `STACK_DEPTH` (rule R4). -/
abbrev stackDepth : Nat := 16

/-- `FLAG_REGISTER` (rules R4, R9, R23): the index of `VF`. -/
abbrev flagRegister : Reg := 15

/-- The preconditions on the constants: the zones lie in memory and do not overlap (rule R304) and a frame has at least
one step (rule R232). -/
def wellFormed : Bool :=
  decide (fontOffset + fontGlyphs * fontGlyphBytes ≤ loadOffset) && decide (loadOffset ≤ memSize)
    && decide (1 ≤ stepsPerFrame)

/-- The two values of the parameter `SHIFT_SOURCE` (rule R5). -/
inductive ShiftSource where
  /-- The shifts read `V[y]`. -/
  | vy
  /-- The shifts read `V[x]` and ignore `y`. -/
  | vx
  deriving DecidableEq, Repr, Inhabited

/-- `SHIFT_SOURCE`: OPEN in the spec (rule R5, decision D5); a constant of the machine that no proof can look into
(assumption log 1). -/
opaque shiftSource : ShiftSource

/-- FREE VALUE. `keyDown t k`: is key `k` down at the instant of input transaction number `t`? Every transaction has its
own number, so nothing relates the answers of two transactions (rules R256 to R258, assumption log 2). -/
opaque keyDown : Nat → Key → Bool

/-- FREE VALUE. The draw `KEY_CHOICE` of transaction `t`: which of the pressed keys the key wait takes, counted modulo how
many are down (rules R5, R212, assumption log 3). -/
opaque keyChoice : Nat → Nat

/-- FREE VALUE. The draw `RANDOM_BYTE` of transaction `t` (rules R5, R216, R259, assumption log 4). -/
opaque randomByte : Nat → Byte

end Sys2Proof.Config
end

