-- ==== Sys2Proof/Machine/State.lean ====
section
/-! DEFINITION. Everything the spec gives the machine, as plain data (rules R20 to R38), the two external stores the model
needs to give the display and the inputs a meaning (rule R34), the reasons a step can stop, and the state after reset
(rules R36, R301). -/

namespace Sys2Proof.Machine

/-- The five fatal errors, under the names of rule R272; the error carries what that rule says it carries. -/
inductive FatalError where
  /-- A register-file access with an index above 15; no instruction of the CORE can raise it (rule R21). -/
  | invalidRegisterIndex (index : Nat)
  /-- A memory access at an address that is not below MEMSIZE; the address is a natural number, never truncated. -/
  | outOfBoundsMemoryAccess (addr : Nat)
  /-- `2nnn` with 16 return addresses held. -/
  | stackOverflow
  /-- `00EE` with none held. -/
  | stackUnderflow
  /-- The fetched word matches no row of the opcode table. -/
  | illegalInstruction (word : Word16)
  deriving DecidableEq, Repr

/-- The fault record (rules R31, R275): the error, the address of the instruction whose step raised it, and its word when
the fetch completed. -/
structure FaultRecord where
  kind : FatalError
  pc : Word16
  word : Option Word16
  deriving DecidableEq, Repr

/-- The key-wait latch of `Fx0A` (rule R29). -/
inductive Latch where
  | idle
  | awaitingRelease (k : Key)
  deriving DecidableEq, Repr

/-- The presentation surface of the display capability, between `initialize()` and `shutdown()` (rule R252). -/
inductive Surface where
  /-- `initialize()` has not been issued: `run()` has not begun. -/
  | unprepared
  /-- Between `initialize()` and `shutdown()`. -/
  | ready
  /-- `shutdown()` has been issued: the loop has ended by a halt (rule R239). -/
  | restored
  deriving DecidableEq, Repr

/-- The grid of one-bit pixels, read `grid[col][row]` as rule R254 writes it: column from the left, row from the top. -/
abbrev PixelGrid := Vector (Vector Bool Config.screenHeight) Config.screenWidth

/-- A grid with every pixel off. -/
def blankGrid : PixelGrid := Vector.replicate _ (Vector.replicate _ false)

/-- The display capability, which is not CORE state but which the display instructions act on (rules R34, R252 to R255). -/
structure Display where
  /-- The pixel grid that `clear` and `draw_sprite` act on. -/
  pixels : PixelGrid
  /-- What the output device shows: the grid the last `present()` flushed. Nothing in the CORE reads it (rule R255). -/
  screen : PixelGrid
  surface : Surface
  deriving DecidableEq, Repr

/-- Memory: the bytes that differ from the contents of reset, at strictly rising addresses below MEMSIZE
(`Memory.wf` in Machine/Ops.lean says the form; an unlisted address reads as `resetByte` gives it). -/
abbrev Memory := List Host.Cell

/-- The general registers `V[0]` .. `V[15]`. -/
abbrev RegFile := Vector Byte Config.numRegisters

/-- The machine state. Field by field it is the table of rule R36. -/
structure State where
  /-- `V[0]` .. `V[15]` (rule R20); `V[15]` is the flag register `VF` (rule R23). -/
  V : RegFile
  /-- The address register (rule R24). -/
  I : Word16
  /-- The program counter (rule R25). -/
  pc : Word16
  /-- The 16 slots of the call stack (rule R26). -/
  stack : Vector Word16 Config.stackDepth
  /-- The stack pointer, the next free slot, 0 .. 16 (rule R27). -/
  sp : Fin (Config.stackDepth + 1)
  /-- The delay timer (rule R28). -/
  DT : Byte
  /-- The sound timer (rule R28). -/
  ST : Byte
  /-- The key-wait latch (rule R29). -/
  latch : Latch
  /-- The lifecycle flag, written by the host only (rule R30). -/
  running : Bool
  /-- The record of the fatal error that ended execution, if any (rule R31). -/
  fault : Option FaultRecord
  /-- How many steps of the current frame have completed, 0 .. N-1 (rule R32). -/
  frameStep : Nat
  /-- The 4096 bytes of memory (rules R33, R60). -/
  memory : Memory
  /-- External: the display capability (rule R34). -/
  display : Display
  /-- The MODEL'S OWN: how many input transactions (key queries and random bytes) have been answered; the number of the
  next one, to which the free values of Config are applied (assumption log 2). -/
  inputs : Nat
  deriving DecidableEq, Repr

/-- Why a step cannot be taken at all. A fatal error itself is no such reason: the step that raises it answers a next state
that holds the fault record and what was done before the raise (rules R271, R278); it is the step AFTER it that stops. -/
inductive Fault where
  /-- Raised by `step` in a Faulted machine: no step ever follows a fatal error, and the error is reported to the host
  (rules R262, R276, R277). Safe: the hardware executes nothing further either. -/
  | fatal (record : FaultRecord)
  /-- Raised by `step` when the loop has ended by a halt and the display is shut down: nothing steps the machine again
  (rules R231, R239). Safe: the hardware executes nothing further either. -/
  | halted
  deriving DecidableEq, Repr

/-- Why an instruction has no meaning in this model. -/
inductive Refusal where
  /-- Raised by an arm of `exec` whose instruction is not modelled yet; no arm is one. Safe: nothing is claimed of it. -/
  | notModelled (mnemonic : String)
  deriving DecidableEq, Repr

/-- Rule R301 with the empty image: `pc` at LOAD_OFFSET (rule R36); memory lists nothing, so every byte reads as reset leaves
it; every element the source states no value for is at the value the spec decides (decisions D1, D2, D3, D22; assumption
logs 5 to 8). -/
def State.reset : State where
  V := Vector.replicate _ 0
  I := 0
  pc := BitVec.ofNat 16 Config.loadOffset
  stack := Vector.replicate _ 0
  sp := 0
  DT := 0
  ST := 0
  latch := .idle
  running := true
  fault := none
  frameStep := 0
  memory := []
  display := { pixels := blankGrid, screen := blankGrid, surface := .unprepared }
  inputs := 0

end Sys2Proof.Machine
end

