-- ==== Sys2Proof/Machine/Ops.lean ====
section
/-! DEFINITION. The named operations over memory, registers and the call stack, the updates of State, and raising a fatal
error as ONE shared operation. There is no return from a fatal error (rule R277), so none stands beside it. -/

namespace Sys2Proof.Machine

/-! ## Memory (rules R60 to R75) -/

/-- The 80 font bytes of rule R68, five for each glyph, top row first (general knowledge, decision D4; assumption log 8). -/
def fontTable : List Byte :=
  [0xF0, 0x90, 0x90, 0x90, 0xF0, 0x20, 0x60, 0x20, 0x20, 0x70, 0xF0, 0x10, 0xF0, 0x80, 0xF0,
    0xF0, 0x10, 0xF0, 0x10, 0xF0, 0x90, 0x90, 0xF0, 0x10, 0x10]
  ++ [0xF0, 0x80, 0xF0, 0x10, 0xF0, 0xF0, 0x80, 0xF0, 0x90, 0xF0, 0xF0, 0x10, 0x20, 0x40, 0x40,
    0xF0, 0x90, 0xF0, 0x90, 0xF0, 0xF0, 0x90, 0xF0, 0x10, 0xF0]
  ++ [0xF0, 0x90, 0xF0, 0x90, 0x90, 0xE0, 0x90, 0xE0, 0x90, 0xE0, 0xF0, 0x80, 0x80, 0x80, 0xF0,
    0xE0, 0x90, 0x90, 0x90, 0xE0, 0xF0, 0x80, 0xF0, 0x80, 0xF0, 0xF0, 0x80, 0xF0, 0x80, 0x80]

/-- The byte reset leaves at an address (rule R67): the font table in its zone, 0 elsewhere (decision D3; assumption log 7).
It is what an address that memory does not list reads as. -/
def resetByte (a : Nat) : Byte :=
  if Config.fontOffset ≤ a then fontTable.getD (a - Config.fontOffset) 0 else 0

/-- The byte at an address, whatever the bounds. -/
def Memory.read : Memory → Nat → Byte
  | [], a => resetByte a
  | (b, v) :: m, a => if a = b then v else Memory.read m a

/-- Store a byte, keeping the canonical form: an entry equal to what an unlisted address reads as is not kept. -/
def Memory.write : Memory → Nat → Byte → Memory
  | [], a, v => if v = resetByte a then [] else [(a, v)]
  | (b, u) :: m, a, v =>
    if a < b then (if v = resetByte a then (b, u) :: m else (a, v) :: (b, u) :: m)
    else if a = b then (if v = resetByte a then m else (a, v) :: m)
    else (b, u) :: Memory.write m a v

/-- The canonical form from address `lo` on: addresses strictly rising, at least `lo`, below MEMSIZE, and no entry equal to
what an unlisted address reads as. -/
def Memory.wfFrom : Nat → Memory → Bool
  | _, [] => true
  | lo, (a, v) :: m =>
    decide (lo ≤ a) && decide (a < Config.memSize) && decide (v ≠ resetByte a) && Memory.wfFrom (a + 1) m

/-- The canonical form of memory. -/
def Memory.wf (m : Memory) : Bool := Memory.wfFrom 0 m

/-- `MemRead(addr, 1)` (rule R62). -/
def memRead (m : Memory) (addr : Nat) : Except FatalError Byte :=
  if Config.memSize ≤ addr then .error (.outOfBoundsMemoryAccess addr) else .ok (m.read addr)

/-- `MemWrite(addr, 1, v)` (rule R63). -/
def memWrite (m : Memory) (addr : Nat) (v : Byte) : Except FatalError Memory :=
  if Config.memSize ≤ addr then .error (.outOfBoundsMemoryAccess addr) else .ok (m.write addr v)

/-- `n` byte reads in ascending order; the first that fails is reported (rules R64, R201). -/
def readBytes (m : Memory) (addr : Nat) : Nat → Except FatalError (List Byte)
  | 0 => .ok []
  | n + 1 =>
    match memRead m addr with
    | .error e => .error e
    | .ok v =>
      match readBytes m (addr + 1) n with
      | .error e => .error e
      | .ok vs => .ok (v :: vs)

/-- Byte writes in ascending order. The first that fails ends them, and the writes before it stay (rules R64, R278): the
memory as they leave it, with the error if there is one. -/
def storeBytes (m : Memory) (addr : Nat) : List Byte → Memory × Option FatalError
  | [] => (m, none)
  | v :: vs =>
    match memWrite m addr v with
    | .error e => (m, some e)
    | .ok m' => storeBytes m' (addr + 1) vs

/-- Loads of the listed registers from ascending addresses. The first that fails ends them, and the registers loaded before
it stay loaded (rules R195, R278). -/
def loadBytes (m : Memory) (addr : Nat) : List Reg → RegFile → RegFile × Option FatalError
  | [], V => (V, none)
  | r :: rs, V =>
    match memRead m addr with
    | .error e => (V, some e)
    | .ok v => loadBytes m (addr + 1) rs (V.set r.val v)

/-! ## The register file (rules R20 to R22) -/

/-- The register file's `get` as a port: it fails with an index above 0xF, never wrapping or clamping (rule R21). The decoder
cannot present such an index, so the instructions read registers with `State.reg`. -/
def RegFile.get? (V : RegFile) (index : Nat) : Except FatalError Byte :=
  if h : index < Config.numRegisters then .ok V[index] else .error (.invalidRegisterIndex index)

/-- The register file's `set` as a port (rule R21). -/
def RegFile.set? (V : RegFile) (index : Nat) (v : Byte) : Except FatalError RegFile :=
  if h : index < Config.numRegisters then .ok (V.set index v h) else .error (.invalidRegisterIndex index)

/-- `V[r]` (rule R7). -/
def State.reg (s : State) (r : Reg) : Byte := s.V[r.val]

/-- `V[r] <- v` (rule R7). -/
def State.setReg (s : State) (r : Reg) (v : Byte) : State := { s with V := s.V.set r.val v }

/-- `V[0..x]`, the registers of a bulk transfer in ascending order (rules R194, R195). -/
def regsUpTo (x : Reg) : List Reg := (List.finRange 16).take (x.val + 1)

/-! ## Updates of the other elements -/

/-- All of `V` at once: what a bulk load leaves. -/
def State.setRegs (s : State) (V : RegFile) : State := { s with V := V }

/-- `I <- a`. -/
def State.setI (s : State) (a : Word16) : State := { s with I := a }

/-- `pc <- a`. -/
def State.setPc (s : State) (a : Word16) : State := { s with pc := a }

/-- `DT <- v`. -/
def State.setDT (s : State) (v : Byte) : State := { s with DT := v }

/-- `ST <- v`. -/
def State.setST (s : State) (v : Byte) : State := { s with ST := v }

/-- `latch <- l`. -/
def State.setLatch (s : State) (l : Latch) : State := { s with latch := l }

/-- All of memory at once: what stores leave. -/
def State.setMemory (s : State) (m : Memory) : State := { s with memory := m }

/-- What a display transaction leaves. -/
def State.setDisplay (s : State) (d : Display) : State := { s with display := d }

/-- `frame_step <- j`. -/
def State.setFrameStep (s : State) (j : Nat) : State := { s with frameStep := j }

/-- One more input transaction has been answered. -/
def State.answered (s : State) : State := { s with inputs := s.inputs + 1 }

/-- The sequential policy of rule R124: `pc <- pc + 2`. -/
def State.next (s : State) : State := s.setPc (s.pc + 2)

/-- The skip policy of rule R124: `pc <- pc + 4` if the condition holds, else `pc <- pc + 2`. -/
def State.skipIf (s : State) (c : Bool) : State := s.setPc (if c then s.pc + 4 else s.pc + 2)

/-- The writes of a flag-setting ALU instruction in their order: the result to `V[x]`, then the flag to `VF`, then `pc`
(rule R180, decision D6; assumption log 9). -/
def State.setResultFlag (s : State) (x : Reg) (result flag : Byte) : State :=
  ((s.setReg x result).setReg Config.flagRegister flag).next

/-! ## The call stack (rules R26, R27) -/

/-- `stack[sp] <- a ; sp <- sp + 1`, where a slot is free. -/
def State.push (s : State) (a : Word16) (h : s.sp.val < Config.stackDepth) : State :=
  { s with stack := s.stack.set s.sp.val a h, sp := ⟨s.sp.val + 1, Nat.succ_lt_succ h⟩ }

/-- The slot below a stack pointer that is not 0: the latest return address. -/
def State.top (s : State) (h : s.sp.val ≠ 0) : Word16 :=
  s.stack[s.sp.val - 1]'(Nat.lt_of_lt_of_le (Nat.pred_lt h) (Nat.le_of_lt_succ s.sp.isLt))

/-- `sp <- sp - 1`; the popped slot keeps its value (decision D25). -/
def State.pop (s : State) : State :=
  { s with sp := ⟨s.sp.val - 1, Nat.lt_of_le_of_lt (Nat.sub_le _ _) s.sp.isLt⟩ }

/-! ## Fetching (rule R121) -/

/-- Read the instruction word at an address: the byte there is the high byte; both reads are bounds-checked, in that order,
and no alignment is asked for (rules R65, R66, R121). -/
def fetchAt (m : Memory) (pc : Word16) : Except FatalError Word16 :=
  match memRead m pc.toNat with
  | .error e => .error e
  | .ok hi =>
    match memRead m (pc.toNat + 1) with
    | .error e => .error e
    | .ok lo => .ok (joinBytes hi lo)

/-- The instruction word at `pc`. -/
def State.fetch (s : State) : Except FatalError Word16 := fetchAt s.memory s.pc

/-- A word laid out at an address as the fetch reads it, where both its bytes exist. -/
def Memory.placeWord (m : Memory) (a : Nat) (w : Word16) : Memory :=
  if a + 1 < Config.memSize then (m.write a (highByte w)).write (a + 1) (lowByte w) else m

/-! ## Raising a fatal error (rules R270 to R278) -/

/-- `raise E(info)` (rules R271, R275, R276): the fault record is written, with the address of the instruction being executed
(no rule writes `pc` before its last line) and its word if the fetch completed; nothing else changes, so what was written
before the raise stays written (rule R278). -/
def State.raise (s : State) (e : FatalError) (word : Option Word16) : State :=
  { s with fault := some ⟨e, s.pc, word⟩ }

/-- End an instruction whose accesses may have failed: with an error, raise it for this instruction's word; without one, go
on with the rest of the pseudocode. -/
def State.orRaise (s : State) (i : Instr) (e : Option FatalError) (rest : State → State) : State :=
  match e with
  | some e => s.raise e (some (encode i))
  | none => rest s

end Sys2Proof.Machine
end

