-- ==== Sys2Proof/Machine/Flags.lean ====
section
/-! DEFINITION. Every value a flag write stores into `VF` (rule R23): the byte 0 or 1. -/

namespace Sys2Proof.Machine

/-- A flag as the byte the flag register receives (rule R23). -/
def flagByte (b : Bool) : Byte := if b then 1 else 0

/-- `8xy4`: 1 iff the unsigned sum exceeds 255 (rule R174). -/
def carryFlag (p q : Byte) : Byte := flagByte (decide (255 < p.toNat + q.toNat))

/-- `8xy5` as `notBorrowFlag V[x] V[y]`, `8xy7` as `notBorrowFlag V[y] V[x]`: 1 iff the minuend is at least the
subtrahend (rules R175, R177). -/
def notBorrowFlag (minuend subtrahend : Byte) : Byte := flagByte (decide (subtrahend.toNat ≤ minuend.toNat))

/-- `8xy6`: bit 0 of the value before the shift (rule R176). -/
def evictedLsb (v : Byte) : Byte := flagByte (v.getLsbD 0)

/-- `8xyE`: bit 7 of the value before the shift (rule R178). -/
def evictedMsb (v : Byte) : Byte := flagByte (v.getLsbD 7)

/-- `8xy1`, `8xy2`, `8xy3` reset the flag register (rules R171 to R173). -/
def logicFlag : Byte := flagByte false

/-- `Dxyn`: 1 iff a set pixel was erased (rule R201). -/
def collisionFlag (collision : Bool) : Byte := flagByte collision

end Sys2Proof.Machine
end

