-- ==== Sys2Proof/Machine/Operands.lean ====
section
/-! DEFINITION. Every operand form: the value a shift reads, effective addresses, the glyph address, decimal digits, the key a
register names, and the answers of the input transactions. -/

namespace Sys2Proof.Machine

/-- The value a shift reads, for either value of SHIFT_SOURCE (rules R176, R178). -/
def shiftOperand (src : Config.ShiftSource) (vx vy : Byte) : Byte :=
  match src with
  | .vy => vy
  | .vx => vx

/-- The value `8xy6` and `8xyE` shift on this machine: SHIFT_SOURCE is the constant of Config (rule R5; assumption log 1). -/
def State.shifted (s : State) (x y : Reg) : Byte := shiftOperand Config.shiftSource (s.reg x) (s.reg y)

/-- `EA = I + i` over the naturals, compared with MEMSIZE as it stands (rule R61, decision D24). -/
def State.address (s : State) (i : Nat) : Nat := s.I.toNat + i

/-- A 12-bit immediate widened to 16 bits with zeros (rule R93). -/
def zext16 (nnn : BitVec 12) : Word16 := nnn.zeroExtend 16

/-- The target of `Bnnn`: `nnn` plus `V[0]`, which fits 16 bits (rule R143). -/
def State.offsetTarget (s : State) (nnn : BitVec 12) : Word16 := zext16 nnn + (s.reg 0).zeroExtend 16

/-- The address of the font glyph of a value's low nibble (rule R192, decision D7; assumption log 10). -/
def glyphAddress (v : Byte) : Word16 :=
  BitVec.ofNat 16 (Config.fontOffset + Config.fontGlyphBytes * (v.toNat % 16))

/-- The hundreds, tens and units of a value, one byte each (rule R193). -/
def bcdDigits (v : Byte) : List Byte :=
  [BitVec.ofNat 8 (v.toNat / 100), BitVec.ofNat 8 (v.toNat / 10 % 10), BitVec.ofNat 8 (v.toNat % 10)]

/-- The values of `V[0..x]`, in ascending order (rule R194). -/
def State.regValues (s : State) (x : Reg) : List Byte := (regsUpTo x).map s.reg

/-- The key a register value names: keys are 0 .. 15 (rule R210). -/
def keyOf (v : Byte) : Option Key := if h : v.toNat < 16 then some ⟨v.toNat, h⟩ else none

/-- The register value of a key (rule R212). -/
def keyByte (k : Key) : Byte := BitVec.ofNat 8 k.val

/-! ## Input transactions (rules R251, R256 to R259) -/

/-- `Input.key_pressed(k)`, as this transaction answers it (rule R256). -/
def State.keyPressed (s : State) (k : Key) : Bool := Config.keyDown s.inputs k

/-- `Input.pressed_keys()`: the keys that are down at the same instant (rules R257, R258). -/
def State.pressedKeys (s : State) : List Key := (List.finRange 16).filter s.keyPressed

/-- `draw KEY_CHOICE`: a member of the pressed keys if there is one, whichever the draw picks (rule R212, decision D10). -/
def State.chosenKey (s : State) : Option Key :=
  s.pressedKeys[Config.keyChoice s.inputs % s.pressedKeys.length]?

/-- `Random.byte()` (rule R259). -/
def State.randomByte (s : State) : Byte := Config.randomByte s.inputs

end Sys2Proof.Machine
end

