-- ==== Sys2Proof/Machine/Alu.lean ====
section
/-! DEFINITION. The register-to-register ALU family `8xy0` to `8xyE` (rules R170 to R181). Both sources are read before
anything is written; the result is written first and the flag second (rule R180). -/

namespace Sys2Proof.Machine

/-- `8xy0` LD Vx, Vy (rule R170): no flag. -/
def execLdReg (x y : Reg) (s : State) : Host.Outcome State Fault Refusal :=
  .next (s.setReg x (s.reg y)).next

/-- `8xy1` OR Vx, Vy (rule R171). -/
def execOrReg (x y : Reg) (s : State) : Host.Outcome State Fault Refusal :=
  .next (s.setResultFlag x (s.reg x ||| s.reg y) logicFlag)

/-- `8xy2` AND Vx, Vy (rule R172). -/
def execAndReg (x y : Reg) (s : State) : Host.Outcome State Fault Refusal :=
  .next (s.setResultFlag x (s.reg x &&& s.reg y) logicFlag)

/-- `8xy3` XOR Vx, Vy (rule R173). -/
def execXorReg (x y : Reg) (s : State) : Host.Outcome State Fault Refusal :=
  .next (s.setResultFlag x (s.reg x ^^^ s.reg y) logicFlag)

/-- `8xy4` ADD Vx, Vy (rule R174): no carry in. -/
def execAddReg (x y : Reg) (s : State) : Host.Outcome State Fault Refusal :=
  .next (s.setResultFlag x (s.reg x + s.reg y) (carryFlag (s.reg x) (s.reg y)))

/-- `8xy5` SUB Vx, Vy (rule R175). -/
def execSubReg (x y : Reg) (s : State) : Host.Outcome State Fault Refusal :=
  .next (s.setResultFlag x (s.reg x - s.reg y) (notBorrowFlag (s.reg x) (s.reg y)))

/-- `8xy6` SHR Vx, Vy (rule R176): a logical shift by one of the register SHIFT_SOURCE selects. -/
def execShr (x y : Reg) (s : State) : Host.Outcome State Fault Refusal :=
  .next (s.setResultFlag x (s.shifted x y >>> 1) (evictedLsb (s.shifted x y)))

/-- `8xy7` SUBN Vx, Vy (rule R177): the destination is still `V[x]`. -/
def execSubnReg (x y : Reg) (s : State) : Host.Outcome State Fault Refusal :=
  .next (s.setResultFlag x (s.reg y - s.reg x) (notBorrowFlag (s.reg y) (s.reg x)))

/-- `8xyE` SHL Vx, Vy (rule R178). -/
def execShl (x y : Reg) (s : State) : Host.Outcome State Fault Refusal :=
  .next (s.setResultFlag x (s.shifted x y <<< 1) (evictedMsb (s.shifted x y)))

end Sys2Proof.Machine
end

