-- ==== Sys2Proof/Machine/Capability.lean ====
section
/-! DEFINITION. The display transactions of the capability contract (rules R252 to R255): what each does to the pixel grid, to
what the device shows and to the surface. -/

namespace Sys2Proof.Machine

/-- `pixel[col][row]` (rule R254). -/
def PixelGrid.pixel (g : PixelGrid) (col : Fin 64) (row : Fin 32) : Bool := g[col.val][row.val]

/-- `pixel[col][row] <- not pixel[col][row]` (rule R254). -/
def PixelGrid.toggle (g : PixelGrid) (col : Fin 64) (row : Fin 32) : PixelGrid :=
  g.set col.val (g[col.val].set row.val (!g[col.val][row.val]))

/-- A pixel grid under drawing, with the collision found so far (rule R254). -/
structure Drawing where
  grid : PixelGrid
  collision : Bool
  deriving DecidableEq, Repr

/-- One set bit of a sprite: a collision if its pixel is on, and the pixel is toggled (rule R254). -/
def Drawing.strike (d : Drawing) (col : Fin 64) (row : Fin 32) : Drawing :=
  { grid := d.grid.toggle col row, collision := d.collision || d.grid.pixel col row }

/-- Bit `b` of a sprite row counted from the left: bit `7 - b` of the byte (rule R254, decision D12; assumption log 11). -/
def spriteBit (bits : Byte) (b : Nat) : Bool := bits.getLsbD (7 - b)

/-- The bits of one sprite row in the listed positions, at columns that wrap (rule R254). -/
def Drawing.drawBits (x : Nat) (row : Fin 32) (bits : Byte) : List Nat → Drawing → Drawing
  | [], d => d
  | b :: bs, d =>
    Drawing.drawBits x row bits bs (if spriteBit bits b then d.strike (Fin.ofNat 64 (x + b)) row else d)

/-- The rows of a sprite from row `y` down, wrapping (rule R254). -/
def Drawing.drawRows (x : Nat) : Nat → List Byte → Drawing → Drawing
  | _, [], d => d
  | y, bits :: rows, d =>
    Drawing.drawRows x (y + 1) rows (Drawing.drawBits x (Fin.ofNat 32 y) bits [0, 1, 2, 3, 4, 5, 6, 7] d)

/-- `present()`: the pixel grid is flushed to the output device (rule R255). -/
def Display.present (d : Display) : Display := { d with screen := d.pixels }

/-- `clear()`: every pixel off, and present (rule R253). -/
def Display.clear (d : Display) : Display := { d with pixels := blankGrid }.present

/-- `initialize()`: the surface is prepared, with every pixel off (rule R252, decision D22; assumption log 12). -/
def Display.initialize (d : Display) : Display := { d with pixels := blankGrid, surface := .ready }

/-- `shutdown()`: the surface is restored (rule R252). -/
def Display.shutdown (d : Display) : Display := { d with surface := .restored }

/-- `draw_sprite(x, y, rows)`: XOR-composite the rows at wrapped coordinates and answer whether a set pixel became unset
(rule R254). -/
def Display.drawSprite (d : Display) (x y : Byte) (rows : List Byte) : Display × Bool :=
  let done := Drawing.drawRows x.toNat y.toNat rows ⟨d.pixels, false⟩
  ({ d with pixels := done.grid }, done.collision)

end Sys2Proof.Machine
end

