-- ==== Sys2Proof/Machine/DisplayInstr.lean ====
section
/-! DEFINITION. Display instructions: `00E0`, `Dxyn` (rules R200, R201). -/

namespace Sys2Proof.Machine

/-- `00E0` CLS (rule R200): `VF` is not written. -/
def execCls (s : State) : Host.Outcome State Fault Refusal :=
  .next (s.setDisplay s.display.clear).next

/-- The draw and the writes of `Dxyn`, once its rows are read (rule R201): the coordinates are read before `VF` is written. -/
def State.drawRows (s : State) (x y : Reg) (rows : List Byte) : State :=
  let drawn := s.display.drawSprite (s.reg x) (s.reg y) rows
  ((s.setDisplay drawn.1).setReg Config.flagRegister (collisionFlag drawn.2)).next

/-- `Dxyn` DRW Vx, Vy, n (rule R201): all `n` rows are read before the draw, so a read that fails leaves everything as it was
(decision D22; assumption log 12). -/
def execDrw (x y : Reg) (n : Nat) (s : State) : Host.Outcome State Fault Refusal :=
  .next (match readBytes s.memory (s.address 0) n with
    | .error e => s.raise e (some (encode (.drw x y n)))
    | .ok rows => s.drawRows x y rows)

end Sys2Proof.Machine
end

