-- ==== Sys2Proof/Machine/Flow.lean ====
section
/-! DEFINITION. Control transfer: `00EE`, `1nnn`, `2nnn`, `Bnnn` (rules R140 to R143). -/

namespace Sys2Proof.Machine

/-- `00EE` RET (rule R140): the stack holds the address of the CALL itself, so the 2 is added here. -/
def execRet (s : State) : Host.Outcome State Fault Refusal :=
  .next (if h : s.sp.val = 0 then s.raise .stackUnderflow (some (encode .ret)) else s.pop.setPc (s.top h + 2))

/-- `1nnn` JP nnn (rule R141). -/
def execJp (nnn : BitVec 12) (s : State) : Host.Outcome State Fault Refusal :=
  .next (s.setPc (zext16 nnn))

/-- `2nnn` CALL nnn (rule R142): pushes its own address. -/
def execCall (nnn : BitVec 12) (s : State) : Host.Outcome State Fault Refusal :=
  .next (if h : s.sp.val < Config.stackDepth then (s.push s.pc h).setPc (zext16 nnn)
    else s.raise .stackOverflow (some (encode (.call nnn))))

/-- `Bnnn` JP V0, nnn (rule R143): always `V[0]`, and the sum is not cut to 12 bits. -/
def execJpV0 (nnn : BitVec 12) (s : State) : Host.Outcome State Fault Refusal :=
  .next (s.setPc (s.offsetTarget nnn))

end Sys2Proof.Machine
end

