-- ==== Sys2Proof/Machine/Immediate.lean ====
section
/-! DEFINITION. Load and add immediate: `6xkk`, `7xkk` (rules R160, R161). -/

namespace Sys2Proof.Machine

/-- `6xkk` LD Vx, kk (rule R160). -/
def execLdImm (x : Reg) (kk : Byte) (s : State) : Host.Outcome State Fault Refusal :=
  .next (s.setReg x kk).next

/-- `7xkk` ADD Vx, kk (rule R161): modulo 256, and no flag. -/
def execAddImm (x : Reg) (kk : Byte) (s : State) : Host.Outcome State Fault Refusal :=
  .next (s.setReg x (s.reg x + kk)).next

end Sys2Proof.Machine
end

