-- ==== Sys2Proof/Machine/IndexMemory.lean ====
section
/-! DEFINITION. Address register and memory instructions: `Annn`, `Fx1E`, `Fx29`, `Fx33`, `Fx55`, `Fx65` (rules R190 to
R195). -/

namespace Sys2Proof.Machine

/-- `Annn` LD I, nnn (rule R190). -/
def execLdI (nnn : BitVec 12) (s : State) : Host.Outcome State Fault Refusal :=
  .next (s.setI (zext16 nnn)).next

/-- `Fx1E` ADD I, Vx (rule R191): modulo 65536 (decision D8; assumption log 13), and no flag. -/
def execAddI (x : Reg) (s : State) : Host.Outcome State Fault Refusal :=
  .next (s.setI (s.I + (s.reg x).zeroExtend 16)).next

/-- `Fx29` LD F, Vx (rule R192): memory is not accessed. -/
def execLdF (x : Reg) (s : State) : Host.Outcome State Fault Refusal :=
  .next (s.setI (glyphAddress (s.reg x))).next

/-- `Fx33` LD B, Vx (rule R193): `I` is not changed. -/
def execLdB (x : Reg) (s : State) : Host.Outcome State Fault Refusal :=
  let stored := storeBytes s.memory (s.address 0) (bcdDigits (s.reg x))
  .next ((s.setMemory stored.1).orRaise (.ldB x) stored.2 State.next)

/-- `Fx55` LD [I], Vx (rule R194): `I` advances past the bytes stored, unless one of them faults. -/
def execStoreRegs (x : Reg) (s : State) : Host.Outcome State Fault Refusal :=
  let stored := storeBytes s.memory (s.address 0) (s.regValues x)
  .next ((s.setMemory stored.1).orRaise (.storeRegs x) stored.2
    fun t => (t.setI (BitVec.ofNat 16 (s.address (x.val + 1)))).next)

/-- `Fx65` LD Vx, [I] (rule R195): as `Fx55`, in the other direction. -/
def execLoadRegs (x : Reg) (s : State) : Host.Outcome State Fault Refusal :=
  let loaded := loadBytes s.memory (s.address 0) (regsUpTo x) s.V
  .next ((s.setRegs loaded.1).orRaise (.loadRegs x) loaded.2
    fun t => (t.setI (BitVec.ofNat 16 (s.address (x.val + 1)))).next)

end Sys2Proof.Machine
end

