-- ==== Sys2Proof/Machine/KeysTimersRandom.lean ====
section
/-! DEFINITION. Key, timer and random instructions: `Ex9E`, `ExA1`, `Fx0A`, `Fx07`, `Fx15`, `Fx18`, `Cxkk` (rules R210 to
R216). -/

namespace Sys2Proof.Machine

/-- The key test of `Ex9E` and `ExA1`: a value above 15 is no key, counts as not pressed and issues no transaction (rules
R210, R211, decision D9; assumption log 14). -/
def State.keyTest (s : State) (v : Byte) : Bool :=
  match keyOf v with
  | some k => s.keyPressed k
  | none => false

/-- The transaction of that test, if it issues one. -/
def State.keyQueried (s : State) (v : Byte) : State :=
  match keyOf v with
  | some _ => s.answered
  | none => s

/-- `Ex9E` SKP Vx (rule R210). -/
def execSkp (x : Reg) (s : State) : Host.Outcome State Fault Refusal :=
  .next ((s.keyQueried (s.reg x)).skipIf (s.keyTest (s.reg x)))

/-- `ExA1` SKNP Vx (rule R211). -/
def execSknp (x : Reg) (s : State) : Host.Outcome State Fault Refusal :=
  .next ((s.keyQueried (s.reg x)).skipIf (!s.keyTest (s.reg x)))

/-- `Fx07` LD Vx, DT (rule R213, decision D11; assumption log 15). -/
def execLdVxDT (x : Reg) (s : State) : Host.Outcome State Fault Refusal :=
  .next (s.setReg x s.DT).next

/-- `Fx0A` with an idle latch: poll; with no key down nothing changes, else one pressed key is taken and latched, and `pc`
stays (rule R212). -/
def State.awaitPress (s : State) (x : Reg) : State :=
  match s.chosenKey with
  | none => s
  | some k => (s.setReg x (keyByte k)).setLatch (.awaitingRelease k)

/-- `Fx0A` with a latched key: while that key is down nothing changes; once it is up the wait completes (rule R212). -/
def State.awaitRelease (s : State) (k : Key) : State :=
  if s.keyPressed k then s else (s.setLatch .idle).next

/-- `Fx0A` LD Vx, K (rule R212): one poll of the blocking key wait, which is one input transaction. -/
def execLdVxK (x : Reg) (s : State) : Host.Outcome State Fault Refusal :=
  .next (match s.latch with
    | .idle => (s.awaitPress x).answered
    | .awaitingRelease k => (s.awaitRelease k).answered)

/-- `Fx15` LD DT, Vx (rule R214). -/
def execLdDTVx (x : Reg) (s : State) : Host.Outcome State Fault Refusal :=
  .next (s.setDT (s.reg x)).next

/-- `Fx18` LD ST, Vx (rule R215). -/
def execLdSTVx (x : Reg) (s : State) : Host.Outcome State Fault Refusal :=
  .next (s.setST (s.reg x)).next

/-- `Cxkk` RND Vx, kk (rule R216): a fresh random byte, masked. -/
def execRnd (x : Reg) (kk : Byte) (s : State) : Host.Outcome State Fault Refusal :=
  .next (s.answered.setReg x (s.randomByte &&& kk)).next

end Sys2Proof.Machine
end

