-- ==== Sys2Proof/Machine/Skip.lean ====
section
/-! DEFINITION. Conditional skips on registers: `3xkk`, `4xkk`, `5xy0`, `9xy0` (rules R150 to R153). -/

namespace Sys2Proof.Machine

/-- `3xkk` SE Vx, kk (rule R150). -/
def execSeImm (x : Reg) (kk : Byte) (s : State) : Host.Outcome State Fault Refusal :=
  .next (s.skipIf (decide (s.reg x = kk)))

/-- `4xkk` SNE Vx, kk (rule R151). -/
def execSneImm (x : Reg) (kk : Byte) (s : State) : Host.Outcome State Fault Refusal :=
  .next (s.skipIf (decide (s.reg x ≠ kk)))

/-- `5xy0` SE Vx, Vy (rule R152). -/
def execSeReg (x y : Reg) (s : State) : Host.Outcome State Fault Refusal :=
  .next (s.skipIf (decide (s.reg x = s.reg y)))

/-- `9xy0` SNE Vx, Vy (rule R153). -/
def execSneReg (x y : Reg) (s : State) : Host.Outcome State Fault Refusal :=
  .next (s.skipIf (decide (s.reg x ≠ s.reg y)))

end Sys2Proof.Machine
end

