-- ==== Sys2Proof/Machine/Scheduler.lean ====
section
/-! DEFINITION. The frame scheduler around a step (rules R230 to R239), and what the host does to the machine: reset with a
program image and the stop request (rules R260, R261, R300 to R304). -/

namespace Sys2Proof.Machine

/-- `Display.initialize()` before the loop starts, once (rules R239, R252). -/
def State.initialized (s : State) : State :=
  if s.display.surface = .unprepared then s.setDisplay s.display.initialize else s

/-- At a frame boundary, before the first step of a frame, with `running` false: no further frame executes (rule R231). -/
def State.haltsHere (s : State) : Bool := decide (s.frameStep = 0) && !s.running

/-- The end of the loop by a halt: `Display.shutdown()`, and the machine state is otherwise left as it is (rule R231). -/
def State.shutDown (s : State) : State := s.setDisplay s.display.shutdown

/-- `Display.present()` after the last step of a frame (rule R233). -/
def State.presented (s : State) : State := s.setDisplay s.display.present

/-- A timer one tick later, never below 0 (rule R234). -/
def countDown (v : Byte) : Byte := if v = 0 then 0 else v - 1

/-- The tick: both timers count down once (rule R234). -/
def State.tick (s : State) : State := (s.setDT (countDown s.DT)).setST (countDown s.ST)

/-- What follows a step. After a fatal error, nothing: the frame is abandoned and `frame_step` keeps its value (rule R238).
After the N-th step of a frame: present, tick, and the next frame boundary. Otherwise the next step of the frame (rules
R232, R239). -/
def State.endOfStep (s : State) : State :=
  if s.fault.isSome then s
  else if Config.stepsPerFrame ≤ s.frameStep + 1 then s.presented.tick.setFrameStep 0
  else s.setFrameStep (s.frameStep + 1)

/-! ## The host's side -/

/-- The stop request: the host may set `running` to false at any time, and writes nothing else (rule R261). -/
def State.requestStop (s : State) : State := { s with running := false }

/-- Bytes copied to ascending addresses (rule R302). -/
def Memory.copyIn (m : Memory) (addr : Nat) : List Byte → Memory
  | [] => m
  | v :: vs => Memory.copyIn (m.write addr v) (addr + 1) vs

/-- `reset(image)`: the state after reset with the image copied to LOAD_OFFSET (rules R300 to R303). An image longer than the
program zone is refused (none): its length is a precondition of reset (rule R304, decision D26). -/
def State.resetWith (image : List Byte) : Option State :=
  if image.length ≤ Config.memSize - Config.loadOffset then
    some (State.reset.setMemory (State.reset.memory.copyIn Config.loadOffset image))
  else none

end Sys2Proof.Machine
end

