-- ==== Sys2Proof/Machine/Cycle.lean ====
section
/-! DEFINITION. The step cycle: fetch, decode, dispatch (rules R120 to R126). -/

namespace Sys2Proof.Machine

/-- `step()` of rule R120 on a machine that takes one: fetch (R121), decode (R122) or illegal (R123), then the one instruction
rule (R125). A fetch fault is recorded with no word; an illegal word is recorded and nothing else changes. -/
def instructionStep (s : State) : Host.Outcome State Fault Refusal :=
  match s.fetch with
  | .error e => .next (s.raise e none)
  | .ok w =>
    match decodeWord w with
    | .error _ => .next (s.raise (.illegalInstruction w) (some w))
    | .ok i => exec i s

/-- A step and what the scheduler does after it (rules R232, R238). -/
def scheduledStep (s : State) : Host.Outcome State Fault Refusal :=
  match instructionStep s with
  | .next t => .next t.endOfStep
  | .fault r => .fault r
  | .refused r => .refused r

/-- The loop's next move while `run()` has not returned (rule R239): `initialize()` if it is still due; at a frame boundary with
`running` false the end of the loop; else a step. -/
def loopStep (s : State) : Host.Outcome State Fault Refusal :=
  if s.initialized.haltsHere then .next s.initialized.shutDown else scheduledStep s.initialized

end Sys2Proof.Machine
end

