-- ==== Sys2Proof/Machine/Step.lean ====
section
/-! DEFINITION. One step of the machine: one move of the loop of rule R239. -/

namespace Sys2Proof.Machine

/-- One move of `run()` (rule R239). A Faulted machine takes no step (rule R276), and neither does one whose loop has ended by
a halt (rule R231). -/
def step (s : State) : Host.Outcome State Fault Refusal :=
  match s.fault with
  | some record => .fault (.fatal record)
  | none => if s.display.surface = .restored then .fault .halted else loopStep s

/-- The machine with an instruction word stored at `pc`, high byte first, where the next step fetches it (rules R65, R121).
Nothing else changes. It stands for the load of a program from outside (rule R260; assumption log 16). -/
def State.withFetchWord (s : State) (nbits w : Nat) : State :=
  s.setMemory (s.memory.placeWord s.pc.toNat (tableWord nbits w))

end Sys2Proof.Machine
end

