-- ==== Sys2Proof/Safety.lean ====
section
/-! DEFINITION. What counts as a safe run: the invariant of reachable states (rules R25, R27, R32, R37) and the three ways the
machine can stand (rules R230, R276). -/

namespace Sys2Proof.Machine

/-- The latch is only ever held by the `Fx0A` that `pc` still addresses, whose destination already holds the key (rule R37). -/
def State.LatchHeld (s : State) : Prop :=
  ∀ k, s.latch = .awaitingRelease k →
    ∃ w x, s.fetch = .ok w ∧ decodeWord w = .ok (.ldVxK x) ∧ s.reg x = keyByte k

/-- The invariant of rule R37, with the canonical form of memory; the ranges of `V[i]`, `DT`, `ST`, `I` and `sp` are in their
types. A stack slot holds 0 or the `pc` of a `CALL` that was fetched (rule R25). -/
structure State.Inv (s : State) : Prop where
  memory_wf : s.memory.wf = true
  frameStep_lt : s.frameStep < Config.stepsPerFrame
  pc_le : s.pc.toNat ≤ 0x10FE
  stack_le : ∀ k (h : k < Config.stackDepth), s.stack[k].toNat ≤ 0xFFE
  latch_held : s.LatchHeld

/-- The machine can take a step: no fatal error has been recorded and the loop has not ended (rules R120, R239, R276). -/
def State.Live (s : State) : Prop := s.fault = none ∧ s.display.surface ≠ .restored

/-- A run that has met no fatal error (rule R276: a faulted state is never final). -/
def State.Safe (s : State) : Prop := s.fault = none

end Sys2Proof.Machine
end

