-- ==== Sys2Proof/Certificates/Slice0/Obligations.lean ====
section
/-! DEFINITION. The statements for the provers, file by file of the spec. Each docstring names the rules it formalises and,
where a clause rests on a decision the spec marks as its own (D<n>) or on general knowledge, the assumption log that says so.
`{ s with … }` on the right of an equation is the frame: every element of the state not listed is unchanged (rule R125). -/

open Sys2Proof Sys2Proof.Machine

/-! ## Encoding (30_encoding.md) -/

/-- Rules R92, R95, R96: words written out from the table's bit patterns decode to the instructions they stand for, at least
one of each family, and near misses are refused by name. That `0nnn` (here 0x0123) is illegal is decision D18 (assumption log 22);
the places of the fields are decision D33 (log 21). -/
def Obligations.WrittenOutWordsDecode : Prop :=
  decodeWord 0b0000000011100000#16 = .ok .cls ∧
  decodeWord 0b0000000011101110#16 = .ok .ret ∧
  decodeWord 0b0001001000110101#16 = .ok (.jp 0x235) ∧
  decodeWord 0b0011101000101011#16 = .ok (.seImm 0xA 0x2B) ∧
  decodeWord 0b0111001100000101#16 = .ok (.addImm 0x3 0x05) ∧
  decodeWord 0b1000000100100101#16 = .ok (.subReg 0x1 0x2) ∧
  decodeWord 0b1010001011110000#16 = .ok (.ldI 0x2F0) ∧
  decodeWord 0b1101000100100101#16 = .ok (.drw 0x1 0x2 5) ∧
  decodeWord 0b1110001010011110#16 = .ok (.skp 0x2) ∧
  decodeWord 0b1111001001010101#16 = .ok (.storeRegs 0x2) ∧
  decodeWord 0x5001#16 = .error (.illegal 0x5001#16) ∧
  decodeWord 0x0123#16 = .error (.illegal 0x0123#16) ∧
  decode [0x6A, 0x2B, 0x12] = .ok (.ldImm 0xA 0x2B, [0x12]) ∧
  decode [0x6A] = .error .truncated

/-- Rules R92 to R96: decoding the encoding of a well-formed instruction gives it back, as a word and as the bytes memory
holds, for every instruction and every value of its operands. The places of the fields are decision D33 (assumption log
21). -/
def Obligations.DecodeOfEncodeIsTheInstruction : Prop :=
  ∀ i : Instr, i.wellFormed = true →
    decodeWord (encode i) = .ok i ∧ ∀ rest, decode (encodeBytes i ++ rest) = .ok (i, rest)

/-- Rules R94, R98: every legal word has one meaning: a word that decodes is the encoding of what it decodes to, and what it
decodes to is well formed (decision D33, assumption log 21). -/
def Obligations.EncodeOfDecodeIsTheWord : Prop :=
  ∀ (w : Word16) (i : Instr), decodeWord w = .ok i → encode i = w ∧ i.wellFormed = true

/-- Rules R94, R96, R97: no word selects two rows of the opcode table; a word that selects a row decodes to an instruction of
that row's mnemonic; a word that selects none is refused as illegal, under its own number. That `0nnn` is illegal is decision
D18 (assumption log 22). -/
def Obligations.LegalWordsAreThoseOfTheOpcodeTable : Prop :=
  (∀ (w : Word16) (p q : OpcodeRow), p ∈ opcodeRows → q ∈ opcodeRows → p.selects w = true → q.selects w = true →
    p = q) ∧
  (∀ (w : Word16) (p : OpcodeRow), p ∈ opcodeRows → p.selects w = true →
    ∃ i, decodeWord w = .ok i ∧ i.mnemonic = p.mnemonic) ∧
  (∀ w : Word16, (∀ p ∈ opcodeRows, p.selects w = false) → decodeWord w = .error (.illegal w))

/-! ## The step cycle (40_step_cycle.md) and fatal errors (60_exceptions.md) -/

/-- Rules R120 to R122, R125, with what the scheduler adds (rules R232, R239): in a machine that takes a step, a fetched word
that decodes to `i` is run by `exec i`, on the machine with the display initialized if that was still due, and the step is
then counted (`endOfStep`). That `initialize` happens inside the first step is the model's placing (assumption log 16). -/
def Obligations.StepRunsTheDecodedInstruction : Prop :=
  ∀ (s : State) (w : Word16) (i : Instr), s.Live → s.haltsHere = false → s.fetch = .ok w → decodeWord w = .ok i →
    step s = match exec i s.initialized with
      | .next t => .next t.endOfStep
      | .fault r => .fault r
      | .refused r => .refused r

/-- Rules R65, R74, R121: a word stored at `pc` is the word the next step fetches, whatever was fetched before, and no other
byte changes. -/
def Obligations.StoredWordIsFetched : Prop :=
  ∀ (s : State) (w : Nat), s.memory.wf = true → s.pc.toNat + 1 < 4096 → w < 65536 →
    (s.withFetchWord 16 w).fetch = .ok (BitVec.ofNat 16 w) ∧
    (s.withFetchWord 16 w).memory.wf = true ∧
    (∀ a, a ≠ s.pc.toNat → a ≠ s.pc.toNat + 1 → (s.withFetchWord 16 w).memory.read a = s.memory.read a) ∧
    s.withFetchWord 16 w = { s with memory := (s.withFetchWord 16 w).memory }

/-- Rules R65, R121: the fetched word is the byte at `pc` times 256 plus the byte after it, whatever the parity of `pc`; a fetch
that leaves memory is a fatal error that reports the first address that does not exist, with `pc` and no word, and nothing
else changes, but that on the first step the display is initialized before (the model's placing of `initialize`, assumption
log 16). The shape of the record is decision D15 (log 17), odd `pc` D13 (log 23). -/
def Obligations.FetchReadsTwoBytesOrIsFatal : Prop :=
  ∀ s : State, s.Live → s.haltsHere = false →
    (s.pc.toNat < 4095 → ∃ w, s.fetch = .ok w ∧
      w.toNat = (s.memory.read s.pc.toNat).toNat * 256 + (s.memory.read (s.pc.toNat + 1)).toNat) ∧
    (s.pc.toNat = 4095 →
      step s = .next { s.initialized with fault := some ⟨.outOfBoundsMemoryAccess 4096, s.pc, none⟩ }) ∧
    (4096 ≤ s.pc.toNat →
      step s = .next { s.initialized with fault := some ⟨.outOfBoundsMemoryAccess s.pc.toNat, s.pc, none⟩ })

/-- Rules R97, R123: a fetched word that matches no row of the opcode table is the fatal error IllegalInstruction, which carries
the word; nothing else changes, but that on the first step the display is initialized before (the model's placing of
`initialize`, assumption log 16). The shape of the record is decision D15 (log 17). -/
def Obligations.IllegalWordIsFatal : Prop :=
  ∀ (s : State) (w : Word16), s.Live → s.haltsHere = false → s.fetch = .ok w →
    (∀ p ∈ opcodeRows, p.selects w = false) →
    step s = .next { s.initialized with fault := some ⟨.illegalInstruction w, s.pc, some w⟩ }

/-- Rules R231, R276, R277: no step is taken by a Faulted machine, which keeps reporting its one error, nor after the loop has
ended by a halt (decision D15, assumption logs 17 and 18). -/
def Obligations.FaultedAndEndedMachinesTakeNoStep : Prop :=
  (∀ (s : State) (r : FaultRecord), s.fault = some r → step s = .fault (.fatal r)) ∧
  (∀ s : State, s.fault = none → s.display.surface = .restored → step s = .fault .halted)

/-- Rules R238, R271, R275, R278: a step that ends in a fatal error records the address of its own instruction; `pc`, `I`, the
stack, the timers, the latch, `running` and `frame_step` are as they were when it began, and so is the display, but that on
the first step it is initialized before (the model's placing of `initialize`, assumption log 16): there is no present and no
tick (decision D15, log 17). -/
def Obligations.FatalErrorLeavesTheMachineAtItsInstruction : Prop :=
  ∀ (s t : State) (r : FaultRecord), step s = .next t → t.fault = some r →
    r.pc = s.pc ∧
    t = { s with V := t.V, memory := t.memory, fault := some r, display := s.initialized.display } ∧
    (∀ w, r.word = some w → s.fetch = .ok w) ∧
    (r.word = none → ∃ e, s.fetch = .error e ∧ r.kind = e)

/-- Rules R270, R272, R274: every instruction answers a next state, and ends in a fatal error only so: `00EE` with an empty
stack; `2nnn` with a full one; `Dxyn` with a row, `Fx33`, `Fx55`, `Fx65` when one of their addresses does not exist, the lowest
such address being reported. All others raise nothing. The record's shape is decision D15 (assumption log 17), the stack
limits D19 (log 24). -/
def Obligations.WhichInstructionRaisesWhat : Prop :=
  ∀ (i : Instr) (s : State), s.fault = none → ∃ t, exec i s = .next t ∧
    (t.fault = none ∨
      ∃ e, t.fault = some ⟨e, s.pc, some (encode i)⟩ ∧
        ((i = .ret ∧ s.sp.val = 0 ∧ e = .stackUnderflow) ∨
         ((∃ nnn, i = .call nnn) ∧ s.sp.val = 16 ∧ e = .stackOverflow) ∨
         (∃ len, 4096 < s.I.toNat + len ∧ e = .outOfBoundsMemoryAccess (max s.I.toNat 4096) ∧
           ((∃ x y, i = .drw x y len ∧ 1 ≤ len) ∨ (∃ x, i = .ldB x ∧ len = 3) ∨
            (∃ x : Reg, (i = .storeRegs x ∨ i = .loadRegs x) ∧ len = x.val + 1)))))

/-! ## State, memory and reset (10_state.md, 20_memory.md, 70_reset_and_hazards.md) -/

/-- Rules R21, R22: the register file as a port: a set is what the next get of that register gives and changes no other
register (the spec's own inference from "16 independent registers"); an index above 15 fails by name in both. That a port
which can fail stands beside the registers the instructions use is the model's deduction (assumption log 34). -/
def Obligations.RegisterFileReadsWhatWasSet : Prop :=
  ∀ (V : RegFile) (r : Nat) (v : Byte),
    (r ≤ 15 → ∃ W, V.set? r v = .ok W ∧ W.get? r = .ok v ∧ ∀ q, q ≠ r → W.get? q = V.get? q) ∧
    (15 < r → V.set? r v = .error (.invalidRegisterIndex r) ∧ V.get? r = .error (.invalidRegisterIndex r))

/-- Rules R62, R63: a byte access below MEMSIZE succeeds, a read after a write of the address gives the byte written and every
other byte is unchanged; an access at or above MEMSIZE fails with the address. The premise is the canonical form of memory,
which every step keeps (StepKeepsTheInvariant). -/
def Obligations.MemoryControllerReadsWhatWasWritten : Prop :=
  ∀ (m : Memory) (a : Nat) (v : Byte), m.wf = true →
    (a < 4096 → memRead m a = .ok (m.read a) ∧ ∃ m', memWrite m a v = .ok m' ∧ m'.wf = true ∧
      memRead m' a = .ok v ∧ ∀ b, b ≠ a → memRead m' b = memRead m b) ∧
    (4096 ≤ a → memRead m a = .error (.outOfBoundsMemoryAccess a) ∧
      memWrite m a v = .error (.outOfBoundsMemoryAccess a))

/-- Rule R60, for the model's own form of memory (assumption log 7): two memories in canonical form that read alike at all 4096
addresses are the same data. -/
def Obligations.MemoriesThatReadAlikeAreEqual : Prop :=
  ∀ m m' : Memory, m.wf = true → m'.wf = true → (∀ a < 4096, m.read a = m'.read a) → m = m'

/-- Rules R69, R302: reset accepts any image of at most 3584 bytes and copies it verbatim to LOAD_OFFSET, where `pc` points. -/
def Obligations.ResetCopiesTheImageVerbatim : Prop :=
  ∀ image : List Byte, image.length ≤ 3584 →
    ∃ s, State.resetWith image = some s ∧ s.pc = 0x200#16 ∧
      ∀ j (h : j < image.length), s.memory.read (0x200 + j) = image[j]

/-- Rules R36, R68, R301, R303, R304: what reset leaves everywhere else. The zeros and the lifecycle values are decisions D1, D2
and D3 (assumption logs 5, 6, 7), the font bytes general knowledge (D4, log 8), the refusal of a longer image D26 (log 16), and
the state of the display D22 (log 12). -/
def Obligations.ResetLeavesTheRestAtItsResetValue : Prop :=
  (∀ image : List Byte, 3584 < image.length → State.resetWith image = none) ∧
  (∀ (image : List Byte) (s : State), State.resetWith image = some s →
    (∀ r : Reg, s.reg r = 0) ∧ s.I = 0 ∧ s.DT = 0 ∧ s.ST = 0 ∧ s.sp.val = 0 ∧
    (∀ k (h : k < 16), s.stack[k] = 0) ∧ s.latch = .idle ∧ s.running = true ∧ s.fault = none ∧ s.frameStep = 0 ∧
    s.display.surface = .unprepared ∧ (∀ (c : Fin 64) (r : Fin 32), s.display.pixels.pixel c r = false) ∧
    ((List.range 80).map fun j => (s.memory.read (0x50 + j)).toNat) =
      [0xF0, 0x90, 0x90, 0x90, 0xF0, 0x20, 0x60, 0x20, 0x20, 0x70, 0xF0, 0x10, 0xF0, 0x80, 0xF0,
        0xF0, 0x10, 0xF0, 0x10, 0xF0, 0x90, 0x90, 0xF0, 0x10, 0x10, 0xF0, 0x80, 0xF0, 0x10, 0xF0,
        0xF0, 0x80, 0xF0, 0x90, 0xF0, 0xF0, 0x10, 0x20, 0x40, 0x40, 0xF0, 0x90, 0xF0, 0x90, 0xF0,
        0xF0, 0x90, 0xF0, 0x10, 0xF0, 0xF0, 0x90, 0xF0, 0x90, 0x90, 0xE0, 0x90, 0xE0, 0x90, 0xE0,
        0xF0, 0x80, 0x80, 0x80, 0xF0, 0xE0, 0x90, 0x90, 0x90, 0xE0, 0xF0, 0x80, 0xF0, 0x80, 0xF0,
        0xF0, 0x80, 0xF0, 0x80, 0x80] ∧
    (∀ a, a < 0x50 ∨ (0xA0 ≤ a ∧ a < 0x200) ∨ 0x200 + image.length ≤ a → s.memory.read a = 0))

/-- Rule R37: the invariant holds at reset, with whatever image. -/
def Obligations.InvariantHoldsAtReset : Prop :=
  State.reset.Inv ∧ ∀ (image : List Byte) (s : State), State.resetWith image = some s → s.Inv

/-- Rules R25, R27, R32, R37: every step keeps the invariant: memory in canonical form, `frame_step` below N, `pc` at most
0x10FE, stack slots at most 0xFFE, and a held latch only while `pc` addresses the `Fx0A` that set it and its destination
holds the key. -/
def Obligations.StepKeepsTheInvariant : Prop :=
  ∀ s t : State, s.Inv → step s = .next t → t.Inv

/-- Rules R23, R38, R125: who writes what, over all instructions: each element changes only by the instructions that name it;
a general register only as the destination `x`, as `VF` by a flag writer, or as one of `V[0..x]` by `Fx65`. The display and the
count of answered inputs are the model's own elements (assumption logs 2 and 12). -/
def Obligations.EachElementIsWrittenOnlyByItsInstructions : Prop :=
  ∀ (i : Instr) (s t : State), exec i s = .next t →
    (t.memory ≠ s.memory → ∃ x, i = .ldB x ∨ i = .storeRegs x) ∧
    (t.I ≠ s.I → (∃ nnn, i = .ldI nnn) ∨ ∃ x, i = .addI x ∨ i = .ldF x ∨ i = .storeRegs x ∨ i = .loadRegs x) ∧
    (t.sp ≠ s.sp ∨ t.stack ≠ s.stack → i = .ret ∨ ∃ nnn, i = .call nnn) ∧
    (t.DT ≠ s.DT → ∃ x, i = .ldDTVx x) ∧
    (t.ST ≠ s.ST → ∃ x, i = .ldSTVx x) ∧
    (t.latch ≠ s.latch → ∃ x, i = .ldVxK x) ∧
    (t.display ≠ s.display → i = .cls ∨ ∃ x y n, i = .drw x y n) ∧
    (t.inputs ≠ s.inputs → (∃ x, i = .skp x ∨ i = .sknp x ∨ i = .ldVxK x) ∨ ∃ x kk, i = .rnd x kk) ∧
    t.running = s.running ∧ t.frameStep = s.frameStep ∧
    (∀ q, t.reg q ≠ s.reg q →
      (∃ kk, i = .ldImm q kk ∨ i = .addImm q kk ∨ i = .rnd q kk) ∨ i = .ldVxDT q ∨ i = .ldVxK q ∨
      (∃ x, i = .loadRegs x ∧ q ≤ x) ∨ (∃ y, i = .ldReg q y) ∨
      (∃ x y, (q = x ∨ q = 15) ∧ (i = .orReg x y ∨ i = .andReg x y ∨ i = .xorReg x y ∨ i = .addReg x y ∨
        i = .subReg x y ∨ i = .shr x y ∨ i = .subnReg x y ∨ i = .shl x y)) ∨
      (q = 15 ∧ ∃ x y n, i = .drw x y n))

/-- Rule R27: the contents of the stack slots at or above `sp` are never read: machines that differ only there take the same
step, and still differ only there (the popped slot keeps its value: decision D25, assumption log 19). -/
def Obligations.FreeStackSlotsAreNeverRead : Prop :=
  ∀ s s' : State, s' = { s with stack := s'.stack } →
    (∀ k (h : k < 16), k < s.sp.val → s'.stack[k] = s.stack[k]) →
    match step s, step s' with
    | .next t, .next t' => t' = { t with stack := t'.stack } ∧
        ∀ k (h : k < 16), k < t.sp.val → t'.stack[k] = t.stack[k]
    | .fault r, .fault r' => r = r'
    | _, _ => False

/-- Rules R28, R215 (decision D29, assumption log 32): nothing reads the sound timer: machines that differ only in `ST` take the same step, and
still differ only in `ST`. -/
def Obligations.SoundTimerIsReadByNothing : Prop :=
  ∀ (s : State) (v : Byte),
    match step s, step { s with ST := v } with
    | .next t, .next t' => t' = { t with ST := t'.ST }
    | .fault r, .fault r' => r = r'
    | _, _ => False

/-- Rules R255, R34: what has been presented is not observable: machines that differ only in what the device shows take the same
step, and differ at most in what the device shows. The shown grid itself is the model's own element (assumption log 12). -/
def Obligations.PresentedScreenIsReadByNothing : Prop :=
  ∀ (s : State) (g : PixelGrid),
    match step s, step { s with display := { s.display with screen := g } } with
    | .next t, .next t' => t' = { t with display := { t.display with screen := t'.display.screen } }
    | .fault r, .fault r' => r = r'
    | _, _ => False

/-- Rules R126, R251, R263: an instruction issues at most one capability transaction: it answers no input and leaves the display;
or it answers one input and leaves the display; or it answers none and is `00E0` with one `clear`, or `Dxyn` with one
`draw_sprite` of the `n` bytes from `I`. An input is answered exactly by `Cxkk`, by `Fx0A`, and by `Ex9E` and `ExA1` when `V[x]`
is a key (decision D9, assumption log 14); `00E0` always clears. The count of answered inputs and the shown grid are the
model's own elements (logs 2 and 12); the statement holds for every value of them. -/
def Obligations.AnInstructionIssuesAtMostOneTransaction : Prop :=
  ∀ (i : Instr) (s : State), ∃ t, exec i s = .next t ∧
    ((t.inputs = s.inputs ∧ t.display = s.display) ∨
     (t.inputs = s.inputs + 1 ∧ t.display = s.display) ∨
     (t.inputs = s.inputs ∧ i = .cls ∧ t.display = s.display.clear) ∨
     (t.inputs = s.inputs ∧ ∃ x y n rows, i = .drw x y n ∧ rows.length = n ∧
       (∀ k (h : k < rows.length), rows[k] = s.memory.read (s.address k)) ∧
       t.display = (s.display.drawSprite (s.reg x) (s.reg y) rows).1)) ∧
    (t.inputs = s.inputs + 1 ↔ (∃ x kk, i = .rnd x kk) ∨ (∃ x, i = .ldVxK x) ∨
      ∃ x, (i = .skp x ∨ i = .sknp x) ∧ (s.reg x).toNat ≤ 15) ∧
    (i = .cls → t.display = s.display.clear)

/-! ## The frame scheduler (48_frame_scheduler.md) -/

/-- Rules R231, R239 (decision D17, assumption log 18): at a frame boundary with `running` false the loop ends: the display is
shut down, after being initialized if that was still due (the model's placing of `initialize`, log 16), nothing else changes,
and no step follows. -/
def Obligations.StopRequestEndsTheLoopAtAFrameBoundary : Prop :=
  ∀ s : State, s.Live → s.frameStep = 0 → s.running = false →
    ∃ t, step s = .next t ∧ t = { s with display := t.display } ∧
      t.display = { s.initialized.display with surface := .restored } ∧ step t = .fault .halted

/-- Rules R231, R261, R279 (decision D17, assumption log 18): inside a frame a stop request changes nothing but `running`: the
step taken is the same. -/
def Obligations.StopRequestInsideAFrameWaits : Prop :=
  ∀ s : State, s.frameStep ≠ 0 →
    match step s, step s.requestStop with
    | .next t, .next t' => t' = t.requestStop
    | .fault r, .fault r' => r = r'
    | _, _ => False

/-- Rules R30, R231: no step writes `running`. -/
def Obligations.NoStepWritesRunning : Prop :=
  ∀ s t : State, step s = .next t → t.running = s.running

/-- Rules R232 to R234: after a step that meets no fatal error, a frame that is not over counts it and nothing else; after the
N-th step of the frame the display is presented and both timers count down once, saturating at 0, and a new frame begins. The
instruction is run with the display initialized if that was still due (the model's placing of `initialize`, assumption log
16); the shown grid is the model's own element (log 12). -/
def Obligations.FrameEndsWithOnePresentAndOneTick : Prop :=
  ∀ (s t : State) (w : Word16) (i : Instr), s.Live → s.haltsHere = false → s.fetch = .ok w → decodeWord w = .ok i →
    exec i s.initialized = .next t → t.fault = none → s.frameStep < 10 →
    ∃ u, step s = .next u ∧
      (s.frameStep < 9 → u = { t with frameStep := s.frameStep + 1 }) ∧
      (s.frameStep = 9 →
        u = { t with DT := u.DT, ST := u.ST, frameStep := 0,
                     display := { t.display with screen := t.display.pixels } } ∧
        u.DT.toNat = t.DT.toNat - 1 ∧ u.ST.toNat = t.ST.toNat - 1)

/-- Rules R232, R236: over any run, `frame_step` counts the steps modulo N = 10, as long as the machine neither faults nor ends
its loop. -/
def Obligations.RunCountsItsStepsModuloTheFrame : Prop :=
  ∀ (k : Nat) (s t : State), s.frameStep < 10 → Sys2Proof.core.run k s = .next t →
    t.fault = none → t.display.surface ≠ .restored → t.frameStep = (s.frameStep + k) % 10

/-- Rule R236: over a run in which no `Fx15` is executed, the delay timer falls by the number of frame ends passed, and never
below 0. -/
def Obligations.DelayTimerFallsByTheFramesPassed : Prop :=
  ∀ (k : Nat) (s t : State), s.frameStep < 10 →
    (∀ j < k, ∀ u w x, Sys2Proof.core.run j s = .next u → u.fetch = .ok w → decodeWord w ≠ .ok (.ldDTVx x)) →
    Sys2Proof.core.run k s = .next t → t.fault = none → t.display.surface ≠ .restored →
    t.DT.toNat = s.DT.toNat - (s.frameStep + k) / 10

/-- Rules R212, R235: a key wait suspends only `pc`: each step that executes `Fx0A`, whatever the keys do, is one poll and one
step of its frame, and raises nothing. The poll changes nothing, or takes a press into `V[x]` and the latch, or on the release
of the latched key makes the latch idle and moves `pc` on; at the end of the frame the display is presented and the timers
count down as in any other frame. On the first step the display is initialized before (the model's placing of `initialize`,
assumption log 16); the shown grid and the count of inputs are the model's own elements (logs 12 and 2). -/
def Obligations.KeyWaitSuspendsOnlyTheProgramCounter : Prop :=
  ∀ (s : State) (w : Word16) (x : Reg), s.Live → s.haltsHere = false → s.frameStep < 10 → s.fetch = .ok w →
    decodeWord w = .ok (.ldVxK x) →
    ∃ u, step s = .next u ∧
      ((u.pc = s.pc ∧ u.latch = s.latch ∧ u.V = s.V) ∨
       (u.pc = s.pc ∧ s.latch = .idle ∧ ∃ k, u.latch = .awaitingRelease k ∧ (u.reg x).toNat = k.val ∧
         ∀ q, q ≠ x → u.reg q = s.reg q) ∨
       (u.pc = s.pc + 2 ∧ s.latch ≠ .idle ∧ u.latch = .idle ∧ u.V = s.V)) ∧
      u.DT.toNat = s.DT.toNat - (if s.frameStep = 9 then 1 else 0) ∧
      u.ST.toNat = s.ST.toNat - (if s.frameStep = 9 then 1 else 0) ∧
      u = { s with
        V := u.V, pc := u.pc, latch := u.latch, DT := u.DT, ST := u.ST
        inputs := s.inputs + 1
        frameStep := (s.frameStep + 1) % 10
        display := { s.initialized.display with
          screen := if s.frameStep = 9 then s.initialized.display.pixels else s.initialized.display.screen } }

/-! ## Control transfer (41_flow.md) -/

/-- Rule R140: `00EE` resumes two past the saved address; with an empty stack it is the fatal error StackUnderflow and nothing
else changes. That the popped slot keeps its value is decision D25, the record's shape D15 (assumption logs 17, 19). -/
def Obligations.RetResumesTwoPastTheSavedAddress : Prop :=
  ∀ s : State,
    (∀ h : s.sp.val ≠ 0, ∃ t, exec .ret s = .next t ∧ t.sp.val = s.sp.val - 1 ∧
      t.pc = s.stack[s.sp.val - 1]'(by have := s.sp.isLt; omega) + 2 ∧ t = { s with sp := t.sp, pc := t.pc }) ∧
    (s.sp.val = 0 → exec .ret s = .next { s with fault := some ⟨.stackUnderflow, s.pc, some 0x00EE#16⟩ })

/-- Rule R141: `1nnn` jumps to `nnn`, with no increment after; a jump to 0xFFF makes the next fetch fail at 4096. -/
def Obligations.JpGoesToItsAddress : Prop :=
  ∀ (nnn : BitVec 12) (s : State),
    decodeWord (BitVec.ofNat 16 (0x1000 + nnn.toNat)) = .ok (.jp nnn) ∧
    ∃ t, exec (.jp nnn) s = .next t ∧ t.pc.toNat = nnn.toNat ∧ t = { s with pc := t.pc } ∧
      (nnn.toNat = 0xFFF → t.fetch = .error (.outOfBoundsMemoryAccess 4096))

/-- Rule R142: `2nnn` saves its own address in the next free slot and jumps; with 16 addresses saved it is the fatal error
StackOverflow and nothing else changes (the stack limit is decision D19, the record's shape D15: assumption logs 24, 17). -/
def Obligations.CallSavesItsOwnAddress : Prop :=
  ∀ (nnn : BitVec 12) (s : State),
    (∀ h : s.sp.val < 16, ∃ t, exec (.call nnn) s = .next t ∧ t.sp.val = s.sp.val + 1 ∧ t.pc.toNat = nnn.toNat ∧
      t.stack[s.sp.val] = s.pc ∧ (∀ k (hk : k < 16), k ≠ s.sp.val → t.stack[k] = s.stack[k]) ∧
      t = { s with sp := t.sp, stack := t.stack, pc := t.pc }) ∧
    (s.sp.val = 16 → exec (.call nnn) s =
      .next { s with fault := some ⟨.stackOverflow, s.pc, some (BitVec.ofNat 16 (0x2000 + nnn.toNat))⟩ })

/-- Rules R26, R140, R142, R309: a routine that returns with the stack as the call left it resumes two past the call, whatever
it did to registers, memory, timers and the display in between, and the stack pointer is what it was before the call (the range
of `sp` is decision D19, assumption log 24). -/
def Obligations.RetAfterCallResumesAfterTheCall : Prop :=
  ∀ (nnn : BitVec 12) (s : State), s.sp.val < 16 → ∃ t, exec (.call nnn) s = .next t ∧
    ∀ u : State, u.stack = t.stack → u.sp = t.sp →
      ∃ v, exec .ret u = .next v ∧ v.pc = s.pc + 2 ∧ v.sp = s.sp ∧
        (∀ k (h : k < 16), k < s.sp.val → v.stack[k] = s.stack[k]) ∧ v = { u with sp := v.sp, pc := v.pc }

/-- Rule R143: `Bnnn` jumps to `nnn` plus `V[0]`, whatever `w[11:8]` is, and the sum is not cut; a sum of 0xFFF or more makes the
next fetch fail at the first address that does not exist. -/
def Obligations.JpV0AddsRegisterZero : Prop :=
  ∀ (nnn : BitVec 12) (s : State),
    decodeWord (BitVec.ofNat 16 (0xB000 + nnn.toNat)) = .ok (.jpV0 nnn) ∧
    ∃ t, exec (.jpV0 nnn) s = .next t ∧ t.pc.toNat = nnn.toNat + (s.reg 0).toNat ∧ t = { s with pc := t.pc } ∧
      (0xFFF ≤ nnn.toNat + (s.reg 0).toNat →
        t.fetch = .error (.outOfBoundsMemoryAccess (max (nnn.toNat + (s.reg 0).toNat) 4096)))

/-! ## Skips and immediates (42_skip.md, 43_load_add_immediate.md) -/

/-- Rules R150 to R153: the four register skips advance `pc` by 4 when their condition holds and by 2 otherwise, and change
nothing else; a non-zero low nibble in families 5 and 9 is illegal. -/
def Obligations.RegisterSkipsAdvanceByFourOrTwo : Prop :=
  ∀ (x y : Reg) (kk : Byte) (s : State),
    (decodeWord (BitVec.ofNat 16 (0x3000 + 0x100 * x.val + kk.toNat)) = .ok (.seImm x kk) ∧
      exec (.seImm x kk) s =
        .next { s with pc := if (s.reg x).toNat = kk.toNat then s.pc + 4 else s.pc + 2 }) ∧
    (decodeWord (BitVec.ofNat 16 (0x4000 + 0x100 * x.val + kk.toNat)) = .ok (.sneImm x kk) ∧
      exec (.sneImm x kk) s =
        .next { s with pc := if (s.reg x).toNat = kk.toNat then s.pc + 2 else s.pc + 4 }) ∧
    (decodeWord (BitVec.ofNat 16 (0x5000 + 0x100 * x.val + 0x10 * y.val)) = .ok (.seReg x y) ∧
      exec (.seReg x y) s =
        .next { s with pc := if (s.reg x).toNat = (s.reg y).toNat then s.pc + 4 else s.pc + 2 }) ∧
    (decodeWord (BitVec.ofNat 16 (0x9000 + 0x100 * x.val + 0x10 * y.val)) = .ok (.sneReg x y) ∧
      exec (.sneReg x y) s =
        .next { s with pc := if (s.reg x).toNat = (s.reg y).toNat then s.pc + 2 else s.pc + 4 }) ∧
    (∀ d : Nat, 1 ≤ d → d ≤ 15 → ∀ w : Word16,
      w.toNat = 0x5000 + 0x100 * x.val + 0x10 * y.val + d ∨ w.toNat = 0x9000 + 0x100 * x.val + 0x10 * y.val + d →
      decodeWord w = .error (.illegal w))

/-- Rules R160, R161: `6xkk` loads the immediate; `7xkk` adds it modulo 256 and writes no flag: with `x = 0xF` the destination is
`VF`, otherwise `VF` is untouched. -/
def Obligations.ImmediatesLoadAndAddWithoutFlag : Prop :=
  ∀ (x : Reg) (kk : Byte) (s : State),
    decodeWord (BitVec.ofNat 16 (0x6000 + 0x100 * x.val + kk.toNat)) = .ok (.ldImm x kk) ∧
    decodeWord (BitVec.ofNat 16 (0x7000 + 0x100 * x.val + kk.toNat)) = .ok (.addImm x kk) ∧
    (∃ t, exec (.ldImm x kk) s = .next t ∧ t.reg x = kk ∧ (∀ q, q ≠ x → t.reg q = s.reg q) ∧
      t.pc = s.pc + 2 ∧ t = { s with V := t.V, pc := t.pc }) ∧
    (∃ t, exec (.addImm x kk) s = .next t ∧ (t.reg x).toNat = ((s.reg x).toNat + kk.toNat) % 256 ∧
      (∀ q, q ≠ x → t.reg q = s.reg q) ∧ t.pc = s.pc + 2 ∧ t = { s with V := t.V, pc := t.pc })

/-! ## The ALU family (44_alu.md) -/

/-- Rule R170: `8xy0` copies `V[y]` to `V[x]` and writes no flag. That low nibble 0 is the assignment is decision D31 (assumption
log 25), the places of the fields D33 (log 21). -/
def Obligations.LdRegCopiesWithoutFlag : Prop :=
  ∀ (x y : Reg) (s : State),
    decodeWord (BitVec.ofNat 16 (0x8000 + 0x100 * x.val + 0x10 * y.val)) = .ok (.ldReg x y) ∧
    ∃ t, exec (.ldReg x y) s = .next t ∧ t.reg x = s.reg y ∧ (∀ q, q ≠ x → t.reg q = s.reg q) ∧
      t.pc = s.pc + 2 ∧ t = { s with V := t.V, pc := t.pc }

/-- Rules R171 to R173, R180: OR, AND, XOR act bit by bit and reset `VF` to 0. That the flag is written after the result, so
that `x = 0xF` ends as 0, is decision D6 (assumption log 9); which low nibble is which operation is D31 (log 25). -/
def Obligations.LogicOperationsResetTheFlag : Prop :=
  ∀ (x y : Reg) (s : State) (i : Instr) (op : Bool → Bool → Bool),
    (i = .orReg x y ∧ op = or) ∨ (i = .andReg x y ∧ op = and) ∨ (i = .xorReg x y ∧ op = xor) →
    ∃ t, exec i s = .next t ∧ t.reg 15 = 0 ∧
      (x ≠ 15 → ∀ b < 8, (t.reg x).getLsbD b = op ((s.reg x).getLsbD b) ((s.reg y).getLsbD b)) ∧
      (∀ q, q ≠ x → q ≠ 15 → t.reg q = s.reg q) ∧ t.pc = s.pc + 2 ∧ t = { s with V := t.V, pc := t.pc }

/-- Rules R174, R179, R180: `8xy4` stores the sum modulo 256, and the carry in `VF`; the old `VF` is no carry in. That the flag
is written after the result is decision D6 (assumption log 9). -/
def Obligations.AddRegStoresSumAndCarry : Prop :=
  ∀ (x y : Reg) (s : State), ∃ t, exec (.addReg x y) s = .next t ∧
    (t.reg 15).toNat = (if 255 < (s.reg x).toNat + (s.reg y).toNat then 1 else 0) ∧
    (x ≠ 15 → (t.reg x).toNat = ((s.reg x).toNat + (s.reg y).toNat) % 256) ∧
    (∀ q, q ≠ x → q ≠ 15 → t.reg q = s.reg q) ∧ t.pc = s.pc + 2 ∧ t = { s with V := t.V, pc := t.pc }

/-- Rules R175, R177, R179, R180: `8xy5` and `8xy7` store the difference modulo 256 in `V[x]`, and in `VF` whether there was no
borrow. That the flag is written after the result is decision D6 (assumption log 9). -/
def Obligations.SubtractionsStoreDifferenceAndNotBorrow : Prop :=
  ∀ (x y : Reg) (s : State) (i : Instr) (minuend subtrahend : Nat),
    (i = .subReg x y ∧ minuend = (s.reg x).toNat ∧ subtrahend = (s.reg y).toNat) ∨
      (i = .subnReg x y ∧ minuend = (s.reg y).toNat ∧ subtrahend = (s.reg x).toNat) →
    ∃ t, exec i s = .next t ∧
      (t.reg 15).toNat = (if subtrahend ≤ minuend then 1 else 0) ∧
      (x ≠ 15 → (t.reg x).toNat = (if subtrahend ≤ minuend then minuend - subtrahend
        else minuend + 256 - subtrahend)) ∧
      (∀ q, q ≠ x → q ≠ 15 → t.reg q = s.reg q) ∧ t.pc = s.pc + 2 ∧ t = { s with V := t.V, pc := t.pc }

/-- Rules R5, R176, R178, R180: the shifts by one of the register SHIFT_SOURCE selects (`V[y]` itself is not changed), with the
evicted bit in `VF`. SHIFT_SOURCE is open (decision D5, assumption log 1): the statement says what each of its two values
means and nothing of which it is. That the flag is written after the result is decision D6 (log 9). -/
def Obligations.ShiftsEvictIntoTheFlag : Prop :=
  ∀ (x y : Reg) (s : State) (v : Nat),
    v = (if Config.shiftSource = .vx then (s.reg x).toNat else (s.reg y).toNat) →
    (∃ t, exec (.shr x y) s = .next t ∧ (t.reg 15).toNat = v % 2 ∧ (x ≠ 15 → (t.reg x).toNat = v / 2) ∧
      (∀ q, q ≠ x → q ≠ 15 → t.reg q = s.reg q) ∧ t.pc = s.pc + 2 ∧ t = { s with V := t.V, pc := t.pc }) ∧
    (∃ t, exec (.shl x y) s = .next t ∧ (t.reg 15).toNat = v / 128 ∧ (x ≠ 15 → (t.reg x).toNat = v * 2 % 256) ∧
      (∀ q, q ≠ x → q ≠ 15 → t.reg q = s.reg q) ∧ t.pc = s.pc + 2 ∧ t = { s with V := t.V, pc := t.pc })

/-! ## Address register and memory (45_index_memory.md) -/

/-- Rule R190: `Annn` loads `I`, whose top four bits become 0. -/
def Obligations.LdILoadsTheAddressRegister : Prop :=
  ∀ (nnn : BitVec 12) (s : State),
    decodeWord (BitVec.ofNat 16 (0xA000 + nnn.toNat)) = .ok (.ldI nnn) ∧
    ∃ t, exec (.ldI nnn) s = .next t ∧ t.I.toNat = nnn.toNat ∧ t.pc = s.pc + 2 ∧ t = { s with I := t.I, pc := t.pc }

/-- Rules R24, R191, R192: `Fx1E` adds `V[x]` to `I` modulo 65536 and writes no flag (the wrap is decision D8, assumption log
13); `Fx29` points `I` at the glyph of the low nibble of `V[x]` (decision D7, log 10) and accesses no memory. -/
def Obligations.AddressRegisterArithmetic : Prop :=
  ∀ (x : Reg) (s : State),
    (∃ t, exec (.addI x) s = .next t ∧ t.I.toNat = (s.I.toNat + (s.reg x).toNat) % 65536 ∧ t.pc = s.pc + 2 ∧
      t = { s with I := t.I, pc := t.pc }) ∧
    (∃ t, exec (.ldF x) s = .next t ∧ t.I.toNat = 0x50 + 5 * ((s.reg x).toNat % 16) ∧ t.pc = s.pc + 2 ∧
      t = { s with I := t.I, pc := t.pc })

/-- Rules R64, R193, R278: `Fx33` stores the hundreds, tens and units of `V[x]` at `I`, `I + 1`, `I + 2` and nothing anywhere
else, and leaves `I`; where one of the three addresses does not exist, the digits before it are stored and the lowest such
address is the fatal error (decision D15, assumption log 17). -/
def Obligations.BcdDigitsAreStoredFromI : Prop :=
  ∀ (x : Reg) (s : State), s.memory.wf = true → ∃ t, exec (.ldB x) s = .next t ∧ t.memory.wf = true ∧
    t = { s with memory := t.memory, pc := t.pc, fault := t.fault } ∧
    (∀ a, (t.memory.read a).toNat =
      if 4096 ≤ a then (s.memory.read a).toNat
      else if a = s.address 0 then (s.reg x).toNat / 100
      else if a = s.address 1 then (s.reg x).toNat / 10 % 10
      else if a = s.address 2 then (s.reg x).toNat % 10
      else (s.memory.read a).toNat) ∧
    (s.address 2 < 4096 → t.pc = s.pc + 2 ∧ t.fault = s.fault) ∧
    (4096 ≤ s.address 2 → t.pc = s.pc ∧
      t.fault = some ⟨.outOfBoundsMemoryAccess (max (s.address 0) 4096), s.pc, some (encode (.ldB x))⟩)

/-- Rules R64, R194, R278: `Fx55` stores `V[0..x]` at `I`, `I + 1`, ... and nothing anywhere else, and advances `I` by `x + 1`;
where an address does not exist, the registers before it are stored, `I` stays, and the lowest such address is the fatal error
(decision D15, assumption log 17). -/
def Obligations.BulkStoreStoresUpToVx : Prop :=
  ∀ (x : Reg) (s : State), s.memory.wf = true → ∃ t, exec (.storeRegs x) s = .next t ∧ t.memory.wf = true ∧
    t = { s with memory := t.memory, I := t.I, pc := t.pc, fault := t.fault } ∧
    (∀ q : Reg, q ≤ x → s.address q.val < 4096 → t.memory.read (s.address q.val) = s.reg q) ∧
    (∀ a, (∀ q : Reg, q ≤ x → s.address q.val < 4096 → a ≠ s.address q.val) →
      t.memory.read a = s.memory.read a) ∧
    (s.address x.val < 4096 →
      t.I.toNat = s.address (x.val + 1) ∧ t.pc = s.pc + 2 ∧ t.fault = s.fault) ∧
    (4096 ≤ s.address x.val → t.I = s.I ∧ t.pc = s.pc ∧
      t.fault = some ⟨.outOfBoundsMemoryAccess (max (s.address 0) 4096), s.pc, some (encode (.storeRegs x))⟩)

/-- Rules R64, R195, R278: `Fx65` loads `V[0..x]` from `I`, `I + 1`, ..., leaves the other registers, and advances `I` by
`x + 1`; where an address does not exist, the registers before it are loaded, `I` stays, and the lowest such address is the
fatal error (decision D15, assumption log 17). -/
def Obligations.BulkLoadLoadsUpToVx : Prop :=
  ∀ (x : Reg) (s : State), ∃ t, exec (.loadRegs x) s = .next t ∧
    t = { s with V := t.V, I := t.I, pc := t.pc, fault := t.fault } ∧
    (∀ q : Reg, t.reg q =
      if q ≤ x ∧ s.address q.val < 4096 then s.memory.read (s.address q.val) else s.reg q) ∧
    (s.address x.val < 4096 →
      t.I.toNat = s.address (x.val + 1) ∧ t.pc = s.pc + 2 ∧ t.fault = s.fault) ∧
    (4096 ≤ s.address x.val → t.I = s.I ∧ t.pc = s.pc ∧
      t.fault = some ⟨.outOfBoundsMemoryAccess (max (s.address 0) 4096), s.pc, some (encode (.loadRegs x))⟩)

/-- Rules R194, R195: registers stored and loaded back from the same base, whatever the registers and `pc` hold in between, are
as they were, and `I` ends at the base plus `x + 1` both times. -/
def Obligations.BulkStoreThenLoadRestoresRegisters : Prop :=
  ∀ (x : Reg) (s : State) (W : RegFile) (a : Word16), s.memory.wf = true → s.address x.val < 4096 →
    ∃ t, exec (.storeRegs x) s = .next t ∧ t.I.toNat = s.I.toNat + x.val + 1 ∧
      ∃ u, exec (.loadRegs x) { t with V := W, I := s.I, pc := a } = .next u ∧ u.I = t.I ∧
        ∀ q, u.reg q = if q ≤ x then s.reg q else W[q.val]

/-! ## Display (46_display.md, 49_capability_interface.md) -/

/-- Rules R200, R253: `00E0` turns every pixel off and presents; `VF` is not written and no CORE state but `pc` changes; a sprite
drawn next meets no collision, whatever it is and wherever it is drawn. -/
def Obligations.ClsTurnsEveryPixelOffAndPresents : Prop :=
  decodeWord 0x00E0#16 = .ok .cls ∧
  ∀ s : State, ∃ t, exec .cls s = .next t ∧ t.pc = s.pc + 2 ∧ t = { s with display := t.display, pc := t.pc } ∧
    (∀ (c : Fin 64) (r : Fin 32), t.display.pixels.pixel c r = false) ∧
    t.display = { s.display with pixels := t.display.pixels, screen := t.display.pixels } ∧
    ∀ (x y : Byte) (rows : List Byte), rows.length ≤ 15 → (t.display.drawSprite x y rows).2 = false

/-- Rule R254: the pixels a sprite covers: those of its set bits, at wrapped coordinates (bit 7 leftmost is decision D12,
assumption log 11). -/
def Sys2Proof.Machine.SpriteCovers (x y : Byte) (rows : List Byte) (c : Fin 64) (r : Fin 32) : Prop :=
  ∃ b k, ∃ h : k < rows.length, b < 8 ∧ rows[k].getLsbD (7 - b) = true ∧
    c.val = (x.toNat + b) % 64 ∧ r.val = (y.toNat + k) % 32

/-- Rule R254 (bit order: decision D12, assumption log 11): `draw_sprite` inverts exactly the pixels the sprite covers, answers
whether one of them was on, and changes nothing else. -/
def Obligations.DrawSpriteInvertsTheCoveredPixels : Prop :=
  ∀ (d : Display) (x y : Byte) (rows : List Byte), rows.length ≤ 15 →
    (∀ c r, (SpriteCovers x y rows c r → (d.drawSprite x y rows).1.pixels.pixel c r = !d.pixels.pixel c r) ∧
      (¬SpriteCovers x y rows c r → (d.drawSprite x y rows).1.pixels.pixel c r = d.pixels.pixel c r)) ∧
    ((d.drawSprite x y rows).2 = true ↔ ∃ c r, SpriteCovers x y rows c r ∧ d.pixels.pixel c r = true) ∧
    (d.drawSprite x y rows).1 = { d with pixels := (d.drawSprite x y rows).1.pixels }

/-- Rule R254, in general what its worked example says of one sprite: drawing a sprite a second time in the same place erases
it, and reports a collision unless the sprite is empty. -/
def Obligations.SpriteDrawnTwiceErasesItself : Prop :=
  ∀ (d : Display) (x y : Byte) (rows : List Byte), rows.length ≤ 15 → (∀ c r, d.pixels.pixel c r = false) →
    (d.drawSprite x y rows).2 = false ∧
    ((d.drawSprite x y rows).1.drawSprite x y rows).1 = d ∧
    (((d.drawSprite x y rows).1.drawSprite x y rows).2 = true ↔ ∃ v ∈ rows, v ≠ 0)

/-- Rules R201, R278: `Dxyn` draws the `n` bytes from `I` at the coordinates `V[x]`, `V[y]` held before the flag is written, and
sets `VF` to the collision; with `n = 0` nothing is read or drawn; where a row's address does not exist, nothing changes but
the fault record, which reports the lowest such address (decisions D15 and D22, assumption logs 12 and 17). -/
def Obligations.DrwDrawsTheRowsAtI : Prop :=
  ∀ (x y : Reg) (n : Nat) (s : State), n ≤ 15 →
    (n = 0 ∨ s.address n ≤ 4096 → ∃ t rows, exec (.drw x y n) s = .next t ∧
      rows.length = n ∧ (∀ k (h : k < rows.length), rows[k] = s.memory.read (s.address k)) ∧
      t.display = (s.display.drawSprite (s.reg x) (s.reg y) rows).1 ∧
      (t.reg 15).toNat = (if (s.display.drawSprite (s.reg x) (s.reg y) rows).2 then 1 else 0) ∧
      (∀ q, q ≠ 15 → t.reg q = s.reg q) ∧ t.pc = s.pc + 2 ∧
      (n = 0 → t.display = s.display ∧ t.reg 15 = 0) ∧
      t = { s with V := t.V, display := t.display, pc := t.pc }) ∧
    (n ≠ 0 → 4096 < s.address n → exec (.drw x y n) s = .next { s with
      fault := some ⟨.outOfBoundsMemoryAccess (max (s.address 0) 4096), s.pc, some (encode (.drw x y n))⟩ })

/-! ## Keys, timers, random (47_keys_timers_random.md) -/

/-- Rules R210, R211, R256: `Ex9E` skips when the key of `V[x]` is down at this transaction and `ExA1` when it is not, whatever
the answer; a value above 15 is no key, counts as not pressed and issues no transaction (decision D9, assumption log 14). -/
def Obligations.KeySkipsQueryOneKeyOnce : Prop :=
  ∀ (x : Reg) (s : State),
    (∀ k : Key, (s.reg x).toNat = k.val →
      exec (.skp x) s = .next { s with inputs := s.inputs + 1,
                                       pc := if Config.keyDown s.inputs k then s.pc + 4 else s.pc + 2 } ∧
      exec (.sknp x) s = .next { s with inputs := s.inputs + 1,
                                        pc := if Config.keyDown s.inputs k then s.pc + 2 else s.pc + 4 }) ∧
    (15 < (s.reg x).toNat →
      exec (.skp x) s = .next { s with pc := s.pc + 2 } ∧ exec (.sknp x) s = .next { s with pc := s.pc + 4 })

/-- Rules R29, R212, R257: one poll of `Fx0A`, whatever the keys do at that instant. Idle: with no key down nothing changes;
with keys down some one of them goes into `V[x]` and the latch, and `pc` stays. Awaiting a release: nothing changes while
the latched key is down; once it is up the latch is idle and `pc` moves on. Each poll is one input transaction. Which keys
are down is an input (assumption log 2), which of them is taken is open (decision D10, log 3). -/
def Obligations.KeyWaitTakesAPressAndThenItsRelease : Prop :=
  ∀ (x : Reg) (s : State),
    (s.latch = .idle → ∃ t, exec (.ldVxK x) s = .next t ∧
      (((∀ k, Config.keyDown s.inputs k = false) ∧ t = { s with inputs := s.inputs + 1 }) ∨
       (∃ k, Config.keyDown s.inputs k = true ∧ t.latch = .awaitingRelease k ∧ (t.reg x).toNat = k.val ∧
         (∀ q, q ≠ x → t.reg q = s.reg q) ∧
         t = { s with V := t.V, latch := t.latch, inputs := s.inputs + 1 }))) ∧
    (∀ k, s.latch = .awaitingRelease k → exec (.ldVxK x) s =
      .next (if Config.keyDown s.inputs k then { s with inputs := s.inputs + 1 }
        else { s with latch := .idle, pc := s.pc + 2, inputs := s.inputs + 1 }))

/-- Rules R213 to R215: `Fx07` reads the delay timer, `Fx15` writes it, `Fx18` writes the sound timer (which does which is general
knowledge, decision D11, assumption log 15). -/
def Obligations.TimerInstructionsReadAndWriteTheirTimer : Prop :=
  ∀ (x : Reg) (s : State),
    (∃ t, exec (.ldVxDT x) s = .next t ∧ t.reg x = s.DT ∧ (∀ q, q ≠ x → t.reg q = s.reg q) ∧ t.pc = s.pc + 2 ∧
      t = { s with V := t.V, pc := t.pc }) ∧
    exec (.ldDTVx x) s = .next { s with DT := s.reg x, pc := s.pc + 2 } ∧
    exec (.ldSTVx x) s = .next { s with ST := s.reg x, pc := s.pc + 2 }

/-- Rules R216, R259: `Cxkk` writes the random byte of this transaction masked by `kk`: every bit clear in `kk` is clear in the
result. The byte is open (decision D21, assumption log 4). -/
def Obligations.RndWritesAMaskedRandomByte : Prop :=
  ∀ (x : Reg) (kk : Byte) (s : State), ∃ t, exec (.rnd x kk) s = .next t ∧
    (∀ b < 8, (t.reg x).getLsbD b = ((Config.randomByte s.inputs).getLsbD b && kk.getLsbD b)) ∧
    (kk = 0 → t.reg x = 0) ∧ (∀ q, q ≠ x → t.reg q = s.reg q) ∧
    t = { s with V := t.V, inputs := s.inputs + 1, pc := s.pc + 2 }

/-! ## The display around the loop (48_frame_scheduler.md, 49_capability_interface.md) -/

/-- Rules R239, R252: `initialize` happens once, before anything else the loop does, and leaves CORE state alone: with the
surface unprepared the grid is turned all off, the surface becomes ready and nothing else changes; otherwise it does not
happen. A live machine's step is the step of the machine with the display initialized first. Every move of the loop that does
not end it leaves the surface ready, so `initialize` is never due again, and no step leaves it due.
The blank grid is decision D22 (assumption log 12), the surface the model's own element (log 12), and that `initialize`
happens in the first step the model's placing (log 16). -/
def Obligations.InitializeBlanksTheDisplayOnce : Prop :=
  ∀ s : State,
    (s.display.surface = .unprepared →
      s.initialized = { s with display := { s.display with pixels := s.initialized.display.pixels, surface := .ready } } ∧
      ∀ (c : Fin 64) (r : Fin 32), s.initialized.display.pixels.pixel c r = false) ∧
    (s.display.surface ≠ .unprepared → s.initialized = s) ∧
    (s.Live → step s = step s.initialized) ∧
    ∀ t, step s = .next t →
      (s.haltsHere = false → t.display.surface = .ready ∧ t.initialized = t) ∧ t.display.surface ≠ .unprepared
end

