-- ==== Sys2Proof/Laws/Decode.lean ====
section
/-! SUPPORT. Fields and formats as numbers (rules R91 to R93): each field is a quotient and remainder of the word, each
assembled word is the number its digits write, so the fields of an assembled word are those it was assembled from. -/

namespace Sys2Proof

/-! ### Fields as numbers (rules R65, R91, R93) -/

theorem nibbleA_toNat (w : Word16) : (nibbleA w).toNat = w.toNat / 4096 := by
  have := w.isLt
  simp only [nibbleA, BitVec.extractLsb'_toNat, Nat.shiftRight_eq_div_pow]
  omega

theorem nibbleB_toNat (w : Word16) : (nibbleB w).toNat = w.toNat / 256 % 16 := by
  simp [nibbleB, Nat.shiftRight_eq_div_pow]

theorem nibbleC_toNat (w : Word16) : (nibbleC w).toNat = w.toNat / 16 % 16 := by
  simp [nibbleC, Nat.shiftRight_eq_div_pow]

theorem nibbleD_toNat (w : Word16) : (nibbleD w).toNat = w.toNat % 16 := by
  simp [nibbleD]

theorem fieldX_val (w : Word16) : (fieldX w).val = w.toNat / 256 % 16 := nibbleB_toNat w

theorem fieldY_val (w : Word16) : (fieldY w).val = w.toNat / 16 % 16 := nibbleC_toNat w

theorem fieldN_eq (w : Word16) : fieldN w = w.toNat % 16 := nibbleD_toNat w

theorem highByte_toNat (w : Word16) : (highByte w).toNat = w.toNat / 256 := by
  have := w.isLt
  simp only [highByte, BitVec.extractLsb'_toNat, Nat.shiftRight_eq_div_pow]
  omega

theorem lowByte_toNat (w : Word16) : (lowByte w).toNat = w.toNat % 256 := by
  simp [lowByte]

theorem fieldKK_toNat (w : Word16) : (fieldKK w).toNat = w.toNat % 256 := lowByte_toNat w

theorem fieldNNN_toNat (w : Word16) : (fieldNNN w).toNat = w.toNat % 4096 := by
  simp [fieldNNN]

/-! ### Assembled words as numbers (rule R92) -/

theorem toNat_append_eq {n m : Nat} (a : BitVec n) (b : BitVec m) : (a ++ b).toNat = a.toNat * 2 ^ m + b.toNat := by
  rw [BitVec.toNat_append, ← Nat.shiftLeft_add_eq_or_of_lt b.isLt, Nat.shiftLeft_eq]

/-- Rule R65: the word of two bytes. -/
theorem joinBytes_toNat (hi lo : Byte) : (joinBytes hi lo).toNat = hi.toNat * 256 + lo.toNat :=
  toNat_append_eq hi lo

theorem regBits_toNat (r : Reg) : (regBits r).toNat = r.val := rfl

theorem formatFA_toNat (a : BitVec 4) (nnn : BitVec 12) : (formatFA a nnn).toNat = a.toNat * 4096 + nnn.toNat :=
  toNat_append_eq a nnn

theorem formatFXK_toNat (a : BitVec 4) (x : Reg) (kk : Byte) :
    (formatFXK a x kk).toNat = a.toNat * 4096 + x.val * 256 + kk.toNat := by
  refine (toNat_append_eq (a ++ regBits x) kk).trans ?_
  rw [toNat_append_eq, regBits_toNat]
  omega

theorem formatFXY_toNat (a : BitVec 4) (x y : Reg) (d : BitVec 4) :
    (formatFXY a x y d).toNat = a.toNat * 4096 + x.val * 256 + y.val * 16 + d.toNat := by
  refine (toNat_append_eq (a ++ regBits x ++ regBits y) d).trans ?_
  rw [toNat_append_eq, toNat_append_eq, regBits_toNat, regBits_toNat]
  omega

/-! ### Numbers as assembled words -/

theorem ofNat_eq_formatFA (a : BitVec 4) (nnn : BitVec 12) :
    BitVec.ofNat 16 (a.toNat * 4096 + nnn.toNat) = formatFA a nnn := by
  rw [← formatFA_toNat, BitVec.ofNat_toNat, BitVec.setWidth_eq]

theorem ofNat_eq_formatFXK (a : BitVec 4) (x : Reg) (kk : Byte) :
    BitVec.ofNat 16 (a.toNat * 4096 + 0x100 * x.val + kk.toNat) = formatFXK a x kk := by
  rw [Nat.mul_comm 0x100, ← formatFXK_toNat, BitVec.ofNat_toNat, BitVec.setWidth_eq]

theorem ofNat_eq_formatFXY (a : BitVec 4) (x y : Reg) (d : BitVec 4) :
    BitVec.ofNat 16 (a.toNat * 4096 + 0x100 * x.val + 0x10 * y.val + d.toNat) = formatFXY a x y d := by
  rw [Nat.mul_comm 0x100, Nat.mul_comm 0x10, ← formatFXY_toNat, BitVec.ofNat_toNat, BitVec.setWidth_eq]

/-! ### Fields of assembled words -/

@[simp] theorem nibbleA_formatFA (a : BitVec 4) (nnn : BitVec 12) : (nibbleA (formatFA a nnn)).toNat = a.toNat := by
  have := nnn.isLt
  rw [nibbleA_toNat, formatFA_toNat]
  omega

@[simp] theorem fieldNNN_formatFA (a : BitVec 4) (nnn : BitVec 12) : fieldNNN (formatFA a nnn) = nnn := by
  have := nnn.isLt
  apply BitVec.eq_of_toNat_eq
  rw [fieldNNN_toNat, formatFA_toNat]
  omega

@[simp] theorem nibbleA_formatFXK (a : BitVec 4) (x : Reg) (kk : Byte) :
    (nibbleA (formatFXK a x kk)).toNat = a.toNat := by
  have := kk.isLt
  rw [nibbleA_toNat, formatFXK_toNat]
  omega

@[simp] theorem fieldX_formatFXK (a : BitVec 4) (x : Reg) (kk : Byte) : fieldX (formatFXK a x kk) = x := by
  have := kk.isLt
  apply Fin.ext
  rw [fieldX_val, formatFXK_toNat]
  omega

@[simp] theorem fieldKK_formatFXK (a : BitVec 4) (x : Reg) (kk : Byte) : fieldKK (formatFXK a x kk) = kk := by
  have := kk.isLt
  apply BitVec.eq_of_toNat_eq
  rw [fieldKK_toNat, formatFXK_toNat]
  omega

@[simp] theorem nibbleA_formatFXY (a : BitVec 4) (x y : Reg) (d : BitVec 4) :
    (nibbleA (formatFXY a x y d)).toNat = a.toNat := by
  have := d.isLt
  rw [nibbleA_toNat, formatFXY_toNat]
  omega

@[simp] theorem fieldX_formatFXY (a : BitVec 4) (x y : Reg) (d : BitVec 4) : fieldX (formatFXY a x y d) = x := by
  have := d.isLt
  apply Fin.ext
  rw [fieldX_val, formatFXY_toNat]
  omega

@[simp] theorem fieldY_formatFXY (a : BitVec 4) (x y : Reg) (d : BitVec 4) : fieldY (formatFXY a x y d) = y := by
  have := d.isLt
  apply Fin.ext
  rw [fieldY_val, formatFXY_toNat]
  omega

@[simp] theorem nibbleD_formatFXY (a : BitVec 4) (x y : Reg) (d : BitVec 4) :
    (nibbleD (formatFXY a x y d)).toNat = d.toNat := by
  have := d.isLt
  rw [nibbleD_toNat, formatFXY_toNat]
  omega

@[simp] theorem fieldN_formatFXY (a : BitVec 4) (x y : Reg) (d : BitVec 4) : fieldN (formatFXY a x y d) = d.toNat :=
  nibbleD_formatFXY a x y d

/-! ### Bytes of a word -/

@[simp] theorem joinBytes_high_low (w : Word16) : joinBytes (highByte w) (lowByte w) = w := by
  apply BitVec.eq_of_toNat_eq
  rw [joinBytes_toNat, highByte_toNat, lowByte_toNat]
  omega

@[simp] theorem highByte_joinBytes (hi lo : Byte) : highByte (joinBytes hi lo) = hi := by
  have := lo.isLt
  apply BitVec.eq_of_toNat_eq
  rw [highByte_toNat, joinBytes_toNat]
  omega

@[simp] theorem lowByte_joinBytes (hi lo : Byte) : lowByte (joinBytes hi lo) = lo := by
  have := lo.isLt
  apply BitVec.eq_of_toNat_eq
  rw [lowByte_toNat, joinBytes_toNat]
  omega

/-- The byte decoder is the word decoder on the first two bytes. -/
theorem decode_cons_cons (hi lo : Byte) (rest : List Byte) :
    decode (hi :: lo :: rest) = (decodeWord (joinBytes hi lo)).map (·, rest) := by
  simp only [decode]
  cases decodeWord (joinBytes hi lo) <;> rfl

/-! ### A word is its fields, and masks act on them (rules R91, R94) -/

/-- Every word is its four nibbles. -/
theorem eq_formatFXY (w : Word16) : w = formatFXY (nibbleA w) (fieldX w) (fieldY w) (nibbleD w) := by
  apply BitVec.eq_of_toNat_eq
  rw [formatFXY_toNat, nibbleA_toNat, fieldX_val, fieldY_val, nibbleD_toNat]
  omega

/-- Every word is its family, its register field and its low byte. -/
theorem eq_formatFXK (w : Word16) : w = formatFXK (nibbleA w) (fieldX w) (fieldKK w) := by
  apply BitVec.eq_of_toNat_eq
  rw [formatFXK_toNat, nibbleA_toNat, fieldX_val, fieldKK_toNat]
  omega

/-- Every word is its family and its address field. -/
theorem eq_formatFA (w : Word16) : w = formatFA (nibbleA w) (fieldNNN w) := by
  apply BitVec.eq_of_toNat_eq
  rw [formatFA_toNat, nibbleA_toNat, fieldNNN_toNat]
  omega

theorem formatFA_and_family (a : BitVec 4) (nnn : BitVec 12) : formatFA a nnn &&& 0xF000#16 = formatFA a 0 :=
  (BitVec.and_append (x₁ := a) (y₁ := nnn) (x₂ := 0xF#4) (y₂ := 0#12)).trans
    (by rw [show (0xF#4) = BitVec.allOnes 4 from rfl, BitVec.and_allOnes, BitVec.and_zero]; rfl)

theorem formatFXK_and_family (a : BitVec 4) (x : Reg) (kk : Byte) :
    formatFXK a x kk &&& 0xF000#16 = formatFXK a 0 0 :=
  (BitVec.and_append (x₁ := a ++ regBits x) (y₁ := kk) (x₂ := 0xF#4 ++ 0#4) (y₂ := 0#8)).trans
    (by rw [BitVec.and_append, show (0xF#4) = BitVec.allOnes 4 from rfl, BitVec.and_allOnes, BitVec.and_zero,
      BitVec.and_zero]; rfl)

theorem formatFXK_and_low (a : BitVec 4) (x : Reg) (kk : Byte) :
    formatFXK a x kk &&& 0xF0FF#16 = formatFXK a 0 kk :=
  (BitVec.and_append (x₁ := a ++ regBits x) (y₁ := kk) (x₂ := 0xF#4 ++ 0#4) (y₂ := 0xFF#8)).trans
    (by rw [BitVec.and_append, show (0xF#4) = BitVec.allOnes 4 from rfl, show (0xFF#8) = BitVec.allOnes 8 from rfl,
      BitVec.and_allOnes, BitVec.and_allOnes, BitVec.and_zero]; rfl)

theorem formatFXY_and_family (a : BitVec 4) (x y : Reg) (d : BitVec 4) :
    formatFXY a x y d &&& 0xF000#16 = formatFXY a 0 0 0 :=
  (BitVec.and_append (x₁ := a ++ regBits x ++ regBits y) (y₁ := d) (x₂ := 0xF#4 ++ 0#4 ++ 0#4) (y₂ := 0#4)).trans
    (by rw [BitVec.and_append, BitVec.and_append, show (0xF#4) = BitVec.allOnes 4 from rfl, BitVec.and_allOnes,
      BitVec.and_zero, BitVec.and_zero, BitVec.and_zero]; rfl)

theorem formatFXY_and_low (a : BitVec 4) (x y : Reg) (d : BitVec 4) :
    formatFXY a x y d &&& 0xF00F#16 = formatFXY a 0 0 d :=
  (BitVec.and_append (x₁ := a ++ regBits x ++ regBits y) (y₁ := d) (x₂ := 0xF#4 ++ 0#4 ++ 0#4) (y₂ := 0xF#4)).trans
    (by rw [BitVec.and_append, BitVec.and_append, show (0xF#4) = BitVec.allOnes 4 from rfl, BitVec.and_allOnes,
      BitVec.and_allOnes, BitVec.and_zero, BitVec.and_zero]; rfl)

/-! ### A word from the fields it was cut into (rules R92, R93) -/

theorem formatFA_of_nibble {w : Word16} {a : BitVec 4} (h : (nibbleA w).toNat = a.toNat) : formatFA a (fieldNNN w) = w := by
  conv_rhs => rw [eq_formatFA w, BitVec.eq_of_toNat_eq h]

theorem formatFXK_of_nibble {w : Word16} {a : BitVec 4} (h : (nibbleA w).toNat = a.toNat) :
    formatFXK a (fieldX w) (fieldKK w) = w := by
  conv_rhs => rw [eq_formatFXK w, BitVec.eq_of_toNat_eq h]

theorem formatFXK_of_nibble_low {w : Word16} {a : BitVec 4} {k : Byte} (h : (nibbleA w).toNat = a.toNat)
    (h' : (fieldKK w).toNat = k.toNat) : formatFXK a (fieldX w) k = w := by
  rw [← BitVec.eq_of_toNat_eq h', formatFXK_of_nibble h]

theorem formatFXY_of_nibbles {w : Word16} {a d : BitVec 4} (h : (nibbleA w).toNat = a.toNat)
    (h' : (nibbleD w).toNat = d.toNat) : formatFXY a (fieldX w) (fieldY w) d = w := by
  conv_rhs => rw [eq_formatFXY w, BitVec.eq_of_toNat_eq h, BitVec.eq_of_toNat_eq h']

/-! ### The fields of a word that a row's mask and pattern fix (rule R94) -/

theorem nibbleA_of_and_family {w : Word16} (a : BitVec 4) (h : w &&& 0xF000#16 = formatFXK a 0 0) :
    (nibbleA w).toNat = a.toNat := by
  have := congrArg BitVec.toNat h
  rw [eq_formatFXK w, formatFXK_and_family, formatFXK_toNat, formatFXK_toNat] at this
  simp only [Fin.val_zero] at this
  omega

theorem nibbleA_fieldKK_of_and_low {w : Word16} (a : BitVec 4) (k : Byte) (h : w &&& 0xF0FF#16 = formatFXK a 0 k) :
    (nibbleA w).toNat = a.toNat ∧ (fieldKK w).toNat = k.toNat := by
  have h' := congrArg BitVec.toNat h
  have := (fieldKK w).isLt
  have := k.isLt
  rw [eq_formatFXK w, formatFXK_and_low, formatFXK_toNat, formatFXK_toNat] at h'
  simp only [Fin.val_zero] at h'
  omega

theorem nibbleA_nibbleD_of_and_low {w : Word16} (a d : BitVec 4) (h : w &&& 0xF00F#16 = formatFXY a 0 0 d) :
    (nibbleA w).toNat = a.toNat ∧ (nibbleD w).toNat = d.toNat := by
  have h' := congrArg BitVec.toNat h
  have := (nibbleD w).isLt
  have := d.isLt
  rw [eq_formatFXY w, formatFXY_and_low, formatFXY_toNat, formatFXY_toNat] at h'
  simp only [Fin.val_zero] at h'
  omega

/-- The decoder refuses a word only as illegal, and under its own number (rule R97). -/
theorem decodeWord_error {w : Word16} {e : DecodeError} (h : decodeWord w = .error e) : e = .illegal w := by
  unfold decodeWord decodeAlu decodeKey decodeMisc at h
  split at h <;> (try split at h) <;> (try split at h) <;> first | (cases h; rfl) | cases h

end Sys2Proof
end

