-- ==== Sys2Proof/Laws/Operands.lean ====
section
/-! SUPPORT. What the operand forms and the display's pixels are: widened immediates as numbers, the key a value names, the
key a wait takes, and one pixel under a toggle. -/

namespace Sys2Proof.Machine

/-! ### Immediates and addresses (rules R93, R143, R192) -/

theorem zext16_toNat (nnn : BitVec 12) : (zext16 nnn).toNat = nnn.toNat := by
  have := nnn.isLt
  simp only [zext16, BitVec.truncate_eq_setWidth, BitVec.toNat_setWidth]
  omega

/-- The sum of `Bnnn` fits 16 bits. -/
theorem offsetTarget_toNat (s : State) (nnn : BitVec 12) :
    (s.offsetTarget nnn).toNat = nnn.toNat + (s.reg 0).toNat := by
  have := nnn.isLt
  have := (s.reg 0).isLt
  simp only [State.offsetTarget, BitVec.toNat_add, zext16_toNat, BitVec.truncate_eq_setWidth, BitVec.toNat_setWidth]
  omega

theorem glyphAddress_toNat (v : Byte) : (glyphAddress v).toNat = 0x50 + 5 * (v.toNat % 16) := by
  simp only [glyphAddress, BitVec.toNat_ofNat, Config.fontOffset, Config.fontGlyphBytes]
  omega

/-! ### Keys (rules R210, R212, R257) -/

theorem keyOf_of_eq {v : Byte} {k : Key} (h : v.toNat = k.val) : keyOf v = some k := by
  have := k.isLt
  unfold keyOf
  rw [dif_pos (by omega)]
  exact congrArg some (Fin.ext h)

theorem keyOf_of_lt {v : Byte} (h : 15 < v.toNat) : keyOf v = none := by
  unfold keyOf
  rw [dif_neg (by omega)]

@[simp] theorem keyByte_toNat (k : Key) : (keyByte k).toNat = k.val := by
  have := k.isLt
  simp only [keyByte, BitVec.toNat_ofNat]
  omega

theorem mem_pressedKeys {s : State} {k : Key} : k ∈ s.pressedKeys ↔ s.keyPressed k = true := by
  simp [State.pressedKeys, List.mem_filter]

/-- The key a wait takes is one that is down. -/
theorem keyPressed_of_chosenKey {s : State} {k : Key} (h : s.chosenKey = some k) : s.keyPressed k = true :=
  mem_pressedKeys.mp (List.mem_of_getElem? h)

/-- A wait takes no key exactly when none is down. -/
theorem chosenKey_eq_none {s : State} : s.chosenKey = none ↔ ∀ k, s.keyPressed k = false := by
  unfold State.chosenKey
  rw [List.getElem?_eq_none_iff]
  constructor
  · intro h k
    rcases Nat.eq_zero_or_pos s.pressedKeys.length with h0 | h0
    · rw [← Bool.not_eq_true, ← mem_pressedKeys, List.eq_nil_of_length_eq_zero h0]
      exact List.not_mem_nil
    · exact absurd (Nat.mod_lt (Config.keyChoice s.inputs) h0) (by omega)
  · intro h
    have : s.pressedKeys = [] := List.eq_nil_iff_forall_not_mem.mpr fun k hk => by
      rw [mem_pressedKeys, h k] at hk
      cases hk
    simp [this]

/-! ### Pixels (rule R254) -/

/-- A toggle inverts its pixel and no other. -/
theorem toggle_pixel (g : PixelGrid) (col c : Fin 64) (row r : Fin 32) :
    (g.toggle col row).pixel c r = if c = col ∧ r = row then !g.pixel c r else g.pixel c r := by
  simp only [PixelGrid.toggle, PixelGrid.pixel, Vector.getElem_set, Fin.ext_iff]
  by_cases hc : col.val = c.val
  · by_cases hr : row.val = r.val
    · simp [hc, hr]
    · simp [hc, hr, Ne.symm hr]
  · simp [hc, Ne.symm hc]

/-- Two grids that agree in every pixel are equal. -/
theorem pixel_ext {g h : PixelGrid} (e : ∀ c r, g.pixel c r = h.pixel c r) : g = h :=
  Vector.ext fun c hc => Vector.ext fun r hr => e ⟨c, hc⟩ ⟨r, hr⟩

@[simp] theorem blankGrid_pixel (c : Fin 64) (r : Fin 32) : blankGrid.pixel c r = false := by
  simp [PixelGrid.pixel, blankGrid]

end Sys2Proof.Machine
end

