-- ==== Sys2Proof/Laws/Display.lean ====
section
/-! SUPPORT. What drawing does to each pixel and to the collision answer (rule R254): first the bits of one row, then all rows. -/

namespace Sys2Proof.Machine

/-- The bits of one row, at distinct positions below 8: a pixel of that row is inverted exactly when a set bit lies on it, and
there is a collision exactly when there was one or a set bit meets a pixel that is on. -/
theorem drawBits_spec (x : Nat) (row : Fin 32) (bits : Byte) : ∀ (bs : List Nat) (d : Drawing), bs.Nodup →
    (∀ b ∈ bs, b < 8) →
    (∀ c r, (Drawing.drawBits x row bits bs d).grid.pixel c r =
      if r = row ∧ ∃ b ∈ bs, spriteBit bits b = true ∧ c = Fin.ofNat 64 (x + b) then !d.grid.pixel c r
      else d.grid.pixel c r) ∧
    ((Drawing.drawBits x row bits bs d).collision = true ↔ d.collision = true ∨
      ∃ b ∈ bs, spriteBit bits b = true ∧ d.grid.pixel (Fin.ofNat 64 (x + b)) row = true)
  | [], d, _, _ => by simp [Drawing.drawBits]
  | b :: bs, d, hn, hb => by
    obtain ⟨hnb, hn⟩ := List.nodup_cons.mp hn
    have ih := drawBits_spec x row bits bs (if spriteBit bits b then d.strike (Fin.ofNat 64 (x + b)) row else d) hn
      (fun b h => hb b (List.mem_cons_of_mem _ h))
    have hne : ∀ b' ∈ bs, (Fin.ofNat 64 (x + b') : Fin 64) ≠ Fin.ofNat 64 (x + b) := by
      intro b' h' he
      have he := congrArg Fin.val he
      simp only [Fin.ofNat_eq_cast, Fin.val_natCast] at he
      have h1 := hb b List.mem_cons_self
      have h2 := hb b' (List.mem_cons_of_mem _ h')
      have : b = b' := by omega
      exact hnb (this ▸ h')
    rw [Drawing.drawBits]
    by_cases hs : spriteBit bits b = true
    · simp only [hs, if_true] at ih ⊢
      refine ⟨fun c r => ?_, ?_⟩
      · rw [ih.1]
        simp only [Drawing.strike, toggle_pixel]
        by_cases hr : r = row
        · subst hr
          by_cases hc : c = Fin.ofNat 64 (x + b)
          · have : ¬∃ b' ∈ bs, spriteBit bits b' = true ∧ c = Fin.ofNat 64 (x + b') := by
              rintro ⟨b', h1, _, h3⟩
              exact hne b' h1 (h3.symm.trans hc)
            rw [if_neg (fun h => this h.2), if_pos ⟨hc, rfl⟩, if_pos ⟨rfl, b, List.mem_cons_self, hs, hc⟩]
          · have : (∃ b' ∈ b :: bs, spriteBit bits b' = true ∧ c = Fin.ofNat 64 (x + b')) ↔
                ∃ b' ∈ bs, spriteBit bits b' = true ∧ c = Fin.ofNat 64 (x + b') := by
              constructor
              · rintro ⟨b', h1, h2, h3⟩
                rcases List.mem_cons.mp h1 with rfl | h1
                · exact absurd h3 hc
                · exact ⟨b', h1, h2, h3⟩
              · rintro ⟨b', h1, h2, h3⟩
                exact ⟨b', List.mem_cons_of_mem _ h1, h2, h3⟩
            simp only [this, hc, false_and, if_false]
        · simp [hr]
      · rw [ih.2]
        have hkeep : ∀ b' ∈ bs, (d.strike (Fin.ofNat 64 (x + b)) row).grid.pixel (Fin.ofNat 64 (x + b')) row =
            d.grid.pixel (Fin.ofNat 64 (x + b')) row := by
          intro b' h'
          simp only [Drawing.strike, toggle_pixel]
          rw [if_neg (fun h => hne b' h' h.1)]
        have hcol : (d.strike (Fin.ofNat 64 (x + b)) row).collision =
            (d.collision || d.grid.pixel (Fin.ofNat 64 (x + b)) row) := rfl
        simp only [List.mem_cons, exists_eq_or_imp, hs, true_and]
        rw [hcol, Bool.or_eq_true, or_assoc]
        refine or_congr Iff.rfl (or_congr Iff.rfl ?_)
        constructor <;> (rintro ⟨b', h1, h2, h3⟩; refine ⟨b', h1, h2, ?_⟩)
        · rwa [hkeep b' h1] at h3
        · rwa [hkeep b' h1]
    · simp only [hs] at ih ⊢
      refine ⟨fun c r => (ih.1 c r).trans ?_, ih.2.trans ?_⟩ <;> simp [hs]

/-- A set bit of some row lies on the pixel, for a sprite at (x, y) of any natural coordinates. -/
def RowsCover (x y : Nat) (rows : List Byte) (c : Fin 64) (r : Fin 32) : Prop :=
  ∃ b k, ∃ h : k < rows.length, b < 8 ∧ spriteBit rows[k] b = true ∧ c.val = (x + b) % 64 ∧ r.val = (y + k) % 32

theorem rowsCover_cons (x y : Nat) (v : Byte) (rows : List Byte) (c : Fin 64) (r : Fin 32) :
    RowsCover x y (v :: rows) c r ↔
      (r.val = y % 32 ∧ ∃ b < 8, spriteBit v b = true ∧ c.val = (x + b) % 64) ∨ RowsCover x (y + 1) rows c r := by
  constructor
  · rintro ⟨b, k, h, h1, h2, h3, h4⟩
    cases k with
    | zero => exact .inl ⟨by simpa using h4, b, h1, by simpa using h2, h3⟩
    | succ k => exact .inr ⟨b, k, by simpa using h, h1, by simpa using h2, h3, by rw [h4]; congr 1; omega⟩
  · rintro (⟨h, b, h1, h2, h3⟩ | ⟨b, k, h, h1, h2, h3, h4⟩)
    · exact ⟨b, 0, by simp, h1, by simpa using h2, h3, by simpa using h⟩
    · exact ⟨b, k + 1, by simpa using h, h1, by simpa using h2, h3, by rw [h4]; congr 1; omega⟩

/-- The eight bit positions of a row, as a range. -/
theorem exists_mem_bits_iff (x : Nat) (bits : Byte) (c : Fin 64) :
    (∃ b ∈ [0, 1, 2, 3, 4, 5, 6, 7], spriteBit bits b = true ∧ c = Fin.ofNat 64 (x + b)) ↔
      ∃ b < 8, spriteBit bits b = true ∧ c.val = (x + b) % 64 := by
  constructor
  · rintro ⟨b, h1, h2, h3⟩
    exact ⟨b, by simp at h1; omega, h2, by rw [h3]; simp⟩
  · rintro ⟨b, h1, h2, h3⟩
    exact ⟨b, by simp; omega, h2, Fin.ext (by simp [h3])⟩

/-- All rows, at most 32 of them: a pixel is inverted exactly when a set bit lies on it, and there is a collision exactly when
there was one or a set bit meets a pixel that was on. -/
theorem drawRows_spec (x : Nat) : ∀ (rows : List Byte) (y : Nat) (d : Drawing), rows.length ≤ 32 →
    (∀ c r, (RowsCover x y rows c r → (Drawing.drawRows x y rows d).grid.pixel c r = !d.grid.pixel c r) ∧
      (¬RowsCover x y rows c r → (Drawing.drawRows x y rows d).grid.pixel c r = d.grid.pixel c r)) ∧
    ((Drawing.drawRows x y rows d).collision = true ↔ d.collision = true ∨
      ∃ c r, RowsCover x y rows c r ∧ d.grid.pixel c r = true)
  | [], y, d, _ => by
    have hno : ∀ c r, ¬RowsCover x y [] c r := by
      rintro c r ⟨b, k, h, _⟩
      simp at h
    exact ⟨fun c r => ⟨fun h => absurd h (hno c r), fun _ => rfl⟩,
      .inl, fun h => h.elim id fun ⟨c, r, h, _⟩ => absurd h (hno c r)⟩
  | v :: rows, y, d, hl => by
    have s1 := drawBits_spec x (Fin.ofNat 32 y) v [0, 1, 2, 3, 4, 5, 6, 7] d (by decide) (by decide)
    have hl' : rows.length + 1 ≤ 32 := hl
    have ih := drawRows_spec x rows (y + 1) (Drawing.drawBits x (Fin.ofNat 32 y) v [0, 1, 2, 3, 4, 5, 6, 7] d)
      (by omega)
    rw [Drawing.drawRows]
    generalize Drawing.drawBits x (Fin.ofNat 32 y) v [0, 1, 2, 3, 4, 5, 6, 7] d = d1 at *
    have hdisj : ∀ c r, RowsCover x (y + 1) rows c r → r.val ≠ y % 32 := by
      rintro c r ⟨b, k, h, _, _, _, h4⟩
      omega
    have hrow : ∀ r : Fin 32, r = Fin.ofNat 32 y ↔ r.val = y % 32 := by
      intro r
      rw [Fin.ext_iff]
      simp
    simp only [exists_mem_bits_iff, hrow] at s1
    refine ⟨fun c r => ⟨fun h => ?_, fun h => ?_⟩, ?_⟩
    · rw [rowsCover_cons] at h
      rcases h with h | h
      · rw [(ih.1 c r).2 (fun h' => hdisj c r h' h.1), s1.1, if_pos h]
      · rw [(ih.1 c r).1 h, s1.1, if_neg (fun h' => hdisj c r h h'.1)]
    · rw [rowsCover_cons, not_or] at h
      rw [(ih.1 c r).2 h.2, s1.1, if_neg h.1]
    · rw [ih.2, s1.2, or_assoc]
      refine or_congr Iff.rfl ?_
      constructor
      · rintro (⟨b, h1, h2, h3⟩ | ⟨c, r, h1, h2⟩)
        · exact ⟨_, _, (rowsCover_cons ..).mpr (.inl ⟨by simp, b, by simp at h1; omega, h2, by simp⟩), h3⟩
        · rw [s1.1, if_neg (fun h' => hdisj c r h1 h'.1)] at h2
          exact ⟨c, r, (rowsCover_cons ..).mpr (.inr h1), h2⟩
      · rintro ⟨c, r, h, h'⟩
        rw [rowsCover_cons] at h
        rcases h with ⟨h, b, h1, h2, h3⟩ | h
        · refine .inl ⟨b, by simp; omega, h2, ?_⟩
          rw [show Fin.ofNat 32 y = r from Fin.ext (by simp [h]), show Fin.ofNat 64 (x + b) = c from Fin.ext (by simp [h3])]
          exact h'
        · refine .inr ⟨c, r, h, ?_⟩
          rw [s1.1, if_neg (fun h'' => hdisj c r h h''.1)]
          exact h'

end Sys2Proof.Machine
end

