-- ==== Sys2Proof/Laws/Memory.lean ====
section
/-! SUPPORT. The laws of memory: a read after a write, the canonical form kept by every operation, and what a sequence of byte
accesses can do. -/

namespace Sys2Proof.Machine

/-! ### One byte -/

/-- The form from a higher address on is the form from a lower one on. -/
theorem Memory.wfFrom_mono {lo lo' : Nat} (h : lo ≤ lo') :
    ∀ {m : Memory}, Memory.wfFrom lo' m = true → Memory.wfFrom lo m = true
  | [], _ => rfl
  | (a, v) :: m, hm => by
    simp only [Memory.wfFrom, Bool.and_eq_true, decide_eq_true_eq] at hm ⊢
    exact ⟨⟨⟨by omega, hm.1.1.2⟩, hm.1.2⟩, hm.2⟩

/-- Below its first address, memory reads as reset leaves it. -/
theorem Memory.read_of_lt : ∀ {m : Memory} {lo a : Nat}, Memory.wfFrom lo m = true → a < lo → m.read a = resetByte a
  | [], _, _, _, _ => rfl
  | (b, v) :: m, lo, a, hm, h => by
    simp only [Memory.wfFrom, Bool.and_eq_true, decide_eq_true_eq] at hm
    rw [Memory.read, if_neg (by omega)]
    exact Memory.read_of_lt hm.2 (by omega)

/-- At MEMSIZE and above, memory lists nothing. -/
theorem Memory.read_of_memSize_le :
    ∀ {m : Memory} {lo a : Nat}, Memory.wfFrom lo m = true → Config.memSize ≤ a → m.read a = resetByte a
  | [], _, _, _, _ => rfl
  | (b, v) :: m, lo, a, hm, h => by
    simp only [Memory.wfFrom, Bool.and_eq_true, decide_eq_true_eq] at hm
    rw [Memory.read, if_neg (by omega)]
    exact Memory.read_of_memSize_le hm.2 h

/-- Rule R63: a write leaves every other byte as it was. -/
theorem Memory.read_write_of_ne {a b : Nat} (h : b ≠ a) (v : Byte) : ∀ m : Memory, (m.write a v).read b = m.read b
  | [] => by unfold Memory.write; split <;> simp [Memory.read, h]
  | (c, u) :: m => by
    unfold Memory.write
    split
    · split <;> simp [Memory.read, h]
    · split
      · rename_i hac
        subst hac
        split <;> simp [Memory.read, h]
      · simp [Memory.read, Memory.read_write_of_ne h v m]

/-- Rules R62, R63: a write is what the next read of the address sees. -/
theorem Memory.read_write_self (a : Nat) (v : Byte) :
    ∀ {m : Memory} {lo : Nat}, Memory.wfFrom lo m = true → (m.write a v).read a = v
  | [], _, _ => by unfold Memory.write; split <;> simp_all [Memory.read]
  | (c, u) :: m, lo, hm => by
    simp only [Memory.wfFrom, Bool.and_eq_true, decide_eq_true_eq] at hm
    unfold Memory.write
    split
    · split
      · rename_i hac hv
        rw [Memory.read, if_neg (by omega), Memory.read_of_lt hm.2 (by omega), hv]
      · simp [Memory.read]
    · split
      · rename_i hac
        subst hac
        split
        · rename_i hv
          rw [Memory.read_of_lt hm.2 (by omega), hv]
        · simp [Memory.read]
      · rename_i hac
        rw [Memory.read, if_neg hac]
        exact Memory.read_write_self a v hm.2

/-- A read after a write, in one equation. -/
theorem Memory.read_write {m : Memory} {lo : Nat} (hm : Memory.wfFrom lo m = true) (a b : Nat) (v : Byte) :
    (m.write a v).read b = if b = a then v else m.read b := by
  split
  · rename_i h
    rw [h, Memory.read_write_self a v hm]
  · rename_i h
    exact Memory.read_write_of_ne h v m

/-- A write below MEMSIZE keeps the canonical form. -/
theorem Memory.wfFrom_write {a : Nat} (ha : a < Config.memSize) (v : Byte) :
    ∀ {m : Memory} {lo : Nat}, lo ≤ a → Memory.wfFrom lo m = true → Memory.wfFrom lo (m.write a v) = true
  | [], lo, hlo, _ => by
    unfold Memory.write
    split <;> simp_all [Memory.wfFrom]
  | (c, u) :: m, lo, hlo, hm => by
    simp only [Memory.wfFrom, Bool.and_eq_true, decide_eq_true_eq] at hm
    unfold Memory.write
    split
    · split
      · simp only [Memory.wfFrom, Bool.and_eq_true, decide_eq_true_eq]
        exact hm
      · simp only [Memory.wfFrom, Bool.and_eq_true, decide_eq_true_eq]
        exact ⟨⟨⟨hlo, ha⟩, by assumption⟩, ⟨⟨by omega, hm.1.1.2⟩, hm.1.2⟩, hm.2⟩
    · split
      · rename_i hac
        subst hac
        split
        · exact Memory.wfFrom_mono (by omega) hm.2
        · simp only [Memory.wfFrom, Bool.and_eq_true, decide_eq_true_eq]
          exact ⟨⟨⟨hlo, ha⟩, by assumption⟩, hm.2⟩
      · simp only [Memory.wfFrom, Bool.and_eq_true, decide_eq_true_eq]
        exact ⟨hm.1, Memory.wfFrom_write ha v (by omega) hm.2⟩

/-- `Memory.wf` is kept by a write below MEMSIZE. -/
theorem Memory.wf_write {m : Memory} {a : Nat} (ha : a < Config.memSize) (v : Byte) (hm : m.wf = true) :
    (m.write a v).wf = true :=
  Memory.wfFrom_write ha v (Nat.zero_le a) hm

/-! ### The controller (rules R61 to R63) -/

theorem memRead_of_lt {m : Memory} {a : Nat} (h : a < Config.memSize) : memRead m a = .ok (m.read a) := by
  simp [memRead, h]

theorem memRead_of_le {m : Memory} {a : Nat} (h : Config.memSize ≤ a) :
    memRead m a = .error (.outOfBoundsMemoryAccess a) := by
  simp [memRead, h]

theorem memWrite_of_lt {m : Memory} {a : Nat} {v : Byte} (h : a < Config.memSize) :
    memWrite m a v = .ok (m.write a v) := by
  simp [memWrite, h]

theorem memWrite_of_le {m : Memory} {a : Nat} {v : Byte} (h : Config.memSize ≤ a) :
    memWrite m a v = .error (.outOfBoundsMemoryAccess a) := by
  simp [memWrite, h]

/-! ### Sequences of byte accesses (rules R64, R278) -/

/-- `n` reads succeed when all their addresses exist, and give the bytes there in ascending order. -/
theorem readBytes_of_le {m : Memory} : ∀ {n a : Nat}, (n = 0 ∨ a + n ≤ Config.memSize) →
    readBytes m a n = .ok ((List.range n).map fun k => m.read (a + k))
  | 0, _, _ => rfl
  | n + 1, a, h => by
    rw [readBytes, memRead_of_lt (by omega), readBytes_of_le (n := n) (a := a + 1) (by omega)]
    simp [List.range_succ_eq_map, Function.comp_def, Nat.add_assoc, Nat.add_comm 1]

/-- Otherwise the first address that does not exist is reported. -/
theorem readBytes_of_lt {m : Memory} : ∀ {n a : Nat}, n ≠ 0 → Config.memSize < a + n →
    readBytes m a n = .error (.outOfBoundsMemoryAccess (max a Config.memSize))
  | 0, _, h, _ => absurd rfl h
  | n + 1, a, _, h => by
    by_cases ha : Config.memSize ≤ a
    · rw [readBytes, memRead_of_le ha, Nat.max_eq_left ha]
    · rw [readBytes, memRead_of_lt (by omega), readBytes_of_lt (by omega) (by omega)]
      simp only
      congr 2
      omega

/-- What stores leave: the bytes at the addresses that exist, and every other byte as it was. -/
theorem storeBytes_read : ∀ {vs : List Byte} {m : Memory} {a : Nat}, m.wf = true → ∀ b,
    (storeBytes m a vs).1.read b =
      if a ≤ b ∧ b < a + vs.length ∧ b < Config.memSize then vs.getD (b - a) 0 else m.read b
  | [], m, a, _, b => by
    rw [if_neg (by simp; omega)]
    rfl
  | v :: vs, m, a, hm, b => by
    by_cases ha : Config.memSize ≤ a
    · rw [storeBytes, memWrite_of_le ha, if_neg (by omega)]
    · have hm' := Memory.wf_write (m := m) (a := a) (by omega) v hm
      rw [storeBytes, memWrite_of_lt (by omega)]
      simp only
      rw [storeBytes_read hm' b, Memory.read_write hm]
      by_cases hab : b = a
      · subst hab
        rw [if_neg (by omega), if_pos rfl, if_pos (by simp; omega)]
        simp
      · by_cases hin : a + 1 ≤ b ∧ b < a + 1 + vs.length ∧ b < Config.memSize
        · rw [if_pos hin, if_pos (by simp; omega)]
          obtain ⟨k, rfl⟩ : ∃ k, b = a + (k + 1) := ⟨b - a - 1, by omega⟩
          simp [show a + (k + 1) - (a + 1) = k by omega]
        · rw [if_neg hin, if_neg hab, if_neg (by simp only [List.length_cons]; omega)]

/-- Stores meet no error exactly when all their addresses exist; else the first that does not is reported. -/
theorem storeBytes_error : ∀ {vs : List Byte} {m : Memory} {a : Nat},
    (storeBytes m a vs).2 = if vs = [] ∨ a + vs.length ≤ Config.memSize then none
      else some (.outOfBoundsMemoryAccess (max a Config.memSize))
  | [], _, _ => by simp [storeBytes]
  | v :: vs, m, a => by
    by_cases ha : Config.memSize ≤ a
    · rw [storeBytes, memWrite_of_le ha, if_neg (by simp; omega), Nat.max_eq_left ha]
    · rw [storeBytes, memWrite_of_lt (by omega)]
      simp only
      rw [storeBytes_error]
      by_cases hf : a + (v :: vs).length ≤ Config.memSize
      · rw [if_pos (Or.inr hf), if_pos (Or.inr (by simp at hf; omega))]
      · have hf' := hf
        simp only [List.length_cons] at hf'
        have hne : vs ≠ [] := by rintro rfl; simp only [List.length_nil] at hf'; omega
        rw [if_neg (not_or.mpr ⟨hne, by omega⟩), if_neg (not_or.mpr ⟨List.cons_ne_nil _ _, hf⟩)]
        congr 2
        omega

/-- Stores keep the canonical form. -/
theorem storeBytes_wf : ∀ {vs : List Byte} {m : Memory} {a : Nat}, m.wf = true → (storeBytes m a vs).1.wf = true
  | [], _, _, hm => hm
  | v :: vs, m, a, hm => by
    by_cases ha : Config.memSize ≤ a
    · rw [storeBytes, memWrite_of_le ha]
      exact hm
    · rw [storeBytes, memWrite_of_lt (by omega)]
      exact storeBytes_wf (Memory.wf_write (by omega) v hm)

/-- Placing an instruction word keeps the canonical form. -/
theorem Memory.wf_placeWord {m : Memory} (a : Nat) (w : Word16) (hm : m.wf = true) : (m.placeWord a w).wf = true := by
  unfold Memory.placeWord
  split
  · exact Memory.wf_write (by omega) _ (Memory.wf_write (by omega) _ hm)
  · exact hm

/-- Copying a program image in keeps the canonical form while it stays in memory. -/
theorem Memory.wf_copyIn : ∀ {vs : List Byte} {m : Memory} {a : Nat}, a + vs.length ≤ Config.memSize → m.wf = true →
    (m.copyIn a vs).wf = true
  | [], _, _, _, hm => hm
  | v :: vs, m, a, h, hm => by
    simp only [List.length_cons] at h
    rw [Memory.copyIn]
    exact Memory.wf_copyIn (by omega) (Memory.wf_write (by omega) v hm)

/-- What loads leave: each listed register holds its byte if the byte's address exists, and every other register is as it
was. The registers are listed without repeats. -/
theorem loadBytes_getElem : ∀ {rs : List Reg} {m : Memory} {a : Nat} {V : RegFile}, rs.Nodup → ∀ q : Reg,
    (loadBytes m a rs V).1[q.val] =
      if q ∈ rs ∧ a + rs.idxOf q < Config.memSize then m.read (a + rs.idxOf q) else V[q.val]
  | [], _, _, _, _, _ => by simp [loadBytes]
  | r :: rs, m, a, V, hr, q => by
    obtain ⟨hrs, hnd⟩ := List.nodup_cons.mp hr
    by_cases ha : Config.memSize ≤ a
    · rw [loadBytes, memRead_of_le ha, if_neg (by omega)]
    · rw [loadBytes, memRead_of_lt (by omega)]
      simp only
      rw [loadBytes_getElem hnd q]
      by_cases hq : q = r
      · subst hq
        rw [if_neg (fun h => hrs h.1), if_pos ⟨by simp, by simp; omega⟩]
        simp
      · have hqr : r.val ≠ q.val := fun h => hq (Fin.ext h.symm)
        rw [List.idxOf_cons_ne _ (Ne.symm hq), Vector.getElem_set_ne _ _ hqr]
        simp only [List.mem_cons, hq, false_or, Nat.succ_eq_add_one, Nat.add_assoc, Nat.add_comm 1]

/-- Loads meet no error exactly when all their addresses exist; else the first that does not is reported. -/
theorem loadBytes_error : ∀ {rs : List Reg} {m : Memory} {a : Nat} {V : RegFile},
    (loadBytes m a rs V).2 = if rs = [] ∨ a + rs.length ≤ Config.memSize then none
      else some (.outOfBoundsMemoryAccess (max a Config.memSize))
  | [], _, _, _ => by simp [loadBytes]
  | r :: rs, m, a, V => by
    by_cases ha : Config.memSize ≤ a
    · rw [loadBytes, memRead_of_le ha, if_neg (by simp; omega), Nat.max_eq_left ha]
    · rw [loadBytes, memRead_of_lt (by omega)]
      simp only
      rw [loadBytes_error]
      by_cases hf : a + (r :: rs).length ≤ Config.memSize
      · rw [if_pos (Or.inr hf), if_pos (Or.inr (by simp at hf; omega))]
      · have hf' := hf
        simp only [List.length_cons] at hf'
        have hne : rs ≠ [] := by rintro rfl; simp only [List.length_nil] at hf'; omega
        rw [if_neg (not_or.mpr ⟨hne, by omega⟩), if_neg (not_or.mpr ⟨List.cons_ne_nil _ _, hf⟩)]
        congr 2
        omega

/-- The registers of a bulk transfer: `V[0]` .. `V[x]`, `x + 1` of them, register `q` at position `q`. -/
theorem mem_regsUpTo {x q : Reg} : q ∈ regsUpTo x ↔ q ≤ x := by
  revert x q; decide

theorem regsUpTo_nodup (x : Reg) : (regsUpTo x).Nodup := by
  revert x; decide

theorem regsUpTo_length (x : Reg) : (regsUpTo x).length = x.val + 1 := by
  revert x; decide

theorem regsUpTo_idxOf {x q : Reg} (h : q ≤ x) : (regsUpTo x).idxOf q = q.val := by
  revert x q; decide

end Sys2Proof.Machine
end

