-- ==== Sys2Proof/Laws/PerInstr.lean ====
section
/-! SUPPORT. Statements made per instruction. Family EncodeRow: the word of a well-formed instruction selects the row of the
opcode table that carries its mnemonic (rules R92, R94, R96). -/

namespace Sys2Proof.Laws.EncodeRow

/-- The row of the instruction's mnemonic is in the table and the instruction's word selects it. -/
def Statement (i : Instr) : Prop :=
  i.wellFormed = true → ∃ row ∈ opcodeRows, row.mnemonic = i.mnemonic ∧ row.selects (encode i) = true

/-- How each lemma goes: name the row, and the mask keeps the fixed bits. -/
theorem of_row {i : Instr} (row : OpcodeRow) (hmem : row ∈ opcodeRows) (hname : row.mnemonic = i.mnemonic)
    (hsel : encode i &&& row.mask = row.pattern) : Statement i :=
  fun _ => ⟨row, hmem, hname, by simpa [OpcodeRow.selects] using hsel⟩

theorem cls : Statement .cls :=
  of_row ⟨"CLS", 0xFFFF, 0x00E0⟩ (by decide) rfl rfl

theorem ret : Statement .ret :=
  of_row ⟨"RET", 0xFFFF, 0x00EE⟩ (by decide) rfl rfl

theorem jp (nnn : BitVec 12) : Statement (.jp nnn) :=
  of_row ⟨"JP_nnn", 0xF000, 0x1000⟩ (by decide) rfl ((formatFA_and_family _ nnn).trans rfl)

theorem call (nnn : BitVec 12) : Statement (.call nnn) :=
  of_row ⟨"CALL_nnn", 0xF000, 0x2000⟩ (by decide) rfl ((formatFA_and_family _ nnn).trans rfl)

theorem seImm (x : Reg) (kk : Byte) : Statement (.seImm x kk) :=
  of_row ⟨"SE_Vx__kk", 0xF000, 0x3000⟩ (by decide) rfl ((formatFXK_and_family _ x kk).trans rfl)

theorem sneImm (x : Reg) (kk : Byte) : Statement (.sneImm x kk) :=
  of_row ⟨"SNE_Vx__kk", 0xF000, 0x4000⟩ (by decide) rfl ((formatFXK_and_family _ x kk).trans rfl)

theorem seReg (x y : Reg) : Statement (.seReg x y) :=
  of_row ⟨"SE_Vx__Vy", 0xF00F, 0x5000⟩ (by decide) rfl ((formatFXY_and_low _ x y _).trans rfl)

theorem ldImm (x : Reg) (kk : Byte) : Statement (.ldImm x kk) :=
  of_row ⟨"LD_Vx__kk", 0xF000, 0x6000⟩ (by decide) rfl ((formatFXK_and_family _ x kk).trans rfl)

theorem addImm (x : Reg) (kk : Byte) : Statement (.addImm x kk) :=
  of_row ⟨"ADD_Vx__kk", 0xF000, 0x7000⟩ (by decide) rfl ((formatFXK_and_family _ x kk).trans rfl)

theorem ldReg (x y : Reg) : Statement (.ldReg x y) :=
  of_row ⟨"LD_Vx__Vy", 0xF00F, 0x8000⟩ (by decide) rfl ((formatFXY_and_low _ x y _).trans rfl)

theorem orReg (x y : Reg) : Statement (.orReg x y) :=
  of_row ⟨"OR_Vx__Vy", 0xF00F, 0x8001⟩ (by decide) rfl ((formatFXY_and_low _ x y _).trans rfl)

theorem andReg (x y : Reg) : Statement (.andReg x y) :=
  of_row ⟨"AND_Vx__Vy", 0xF00F, 0x8002⟩ (by decide) rfl ((formatFXY_and_low _ x y _).trans rfl)

theorem xorReg (x y : Reg) : Statement (.xorReg x y) :=
  of_row ⟨"XOR_Vx__Vy", 0xF00F, 0x8003⟩ (by decide) rfl ((formatFXY_and_low _ x y _).trans rfl)

theorem addReg (x y : Reg) : Statement (.addReg x y) :=
  of_row ⟨"ADD_Vx__Vy", 0xF00F, 0x8004⟩ (by decide) rfl ((formatFXY_and_low _ x y _).trans rfl)

theorem subReg (x y : Reg) : Statement (.subReg x y) :=
  of_row ⟨"SUB_Vx__Vy", 0xF00F, 0x8005⟩ (by decide) rfl ((formatFXY_and_low _ x y _).trans rfl)

theorem shr (x y : Reg) : Statement (.shr x y) :=
  of_row ⟨"SHR_Vx__Vy", 0xF00F, 0x8006⟩ (by decide) rfl ((formatFXY_and_low _ x y _).trans rfl)

theorem subnReg (x y : Reg) : Statement (.subnReg x y) :=
  of_row ⟨"SUBN_Vx__Vy", 0xF00F, 0x8007⟩ (by decide) rfl ((formatFXY_and_low _ x y _).trans rfl)

theorem shl (x y : Reg) : Statement (.shl x y) :=
  of_row ⟨"SHL_Vx__Vy", 0xF00F, 0x800E⟩ (by decide) rfl ((formatFXY_and_low _ x y _).trans rfl)

theorem sneReg (x y : Reg) : Statement (.sneReg x y) :=
  of_row ⟨"SNE_Vx__Vy", 0xF00F, 0x9000⟩ (by decide) rfl ((formatFXY_and_low _ x y _).trans rfl)

theorem ldI (nnn : BitVec 12) : Statement (.ldI nnn) :=
  of_row ⟨"LD_I__nnn", 0xF000, 0xA000⟩ (by decide) rfl ((formatFA_and_family _ nnn).trans rfl)

theorem jpV0 (nnn : BitVec 12) : Statement (.jpV0 nnn) :=
  of_row ⟨"JP_V0__nnn", 0xF000, 0xB000⟩ (by decide) rfl ((formatFA_and_family _ nnn).trans rfl)

theorem rnd (x : Reg) (kk : Byte) : Statement (.rnd x kk) :=
  of_row ⟨"RND_Vx__kk", 0xF000, 0xC000⟩ (by decide) rfl ((formatFXK_and_family _ x kk).trans rfl)

theorem drw (x y : Reg) (n : Nat) : Statement (.drw x y n) :=
  of_row ⟨"DRW_Vx__Vy__n", 0xF000, 0xD000⟩ (by decide) rfl ((formatFXY_and_family _ x y _).trans rfl)

theorem skp (x : Reg) : Statement (.skp x) :=
  of_row ⟨"SKP_Vx", 0xF0FF, 0xE09E⟩ (by decide) rfl ((formatFXK_and_low _ x _).trans rfl)

theorem sknp (x : Reg) : Statement (.sknp x) :=
  of_row ⟨"SKNP_Vx", 0xF0FF, 0xE0A1⟩ (by decide) rfl ((formatFXK_and_low _ x _).trans rfl)

theorem ldVxDT (x : Reg) : Statement (.ldVxDT x) :=
  of_row ⟨"LD_Vx__DT", 0xF0FF, 0xF007⟩ (by decide) rfl ((formatFXK_and_low _ x _).trans rfl)

theorem ldVxK (x : Reg) : Statement (.ldVxK x) :=
  of_row ⟨"LD_Vx__K", 0xF0FF, 0xF00A⟩ (by decide) rfl ((formatFXK_and_low _ x _).trans rfl)

theorem ldDTVx (x : Reg) : Statement (.ldDTVx x) :=
  of_row ⟨"LD_DT__Vx", 0xF0FF, 0xF015⟩ (by decide) rfl ((formatFXK_and_low _ x _).trans rfl)

theorem ldSTVx (x : Reg) : Statement (.ldSTVx x) :=
  of_row ⟨"LD_ST__Vx", 0xF0FF, 0xF018⟩ (by decide) rfl ((formatFXK_and_low _ x _).trans rfl)

theorem addI (x : Reg) : Statement (.addI x) :=
  of_row ⟨"ADD_I__Vx", 0xF0FF, 0xF01E⟩ (by decide) rfl ((formatFXK_and_low _ x _).trans rfl)

theorem ldF (x : Reg) : Statement (.ldF x) :=
  of_row ⟨"LD_F__Vx", 0xF0FF, 0xF029⟩ (by decide) rfl ((formatFXK_and_low _ x _).trans rfl)

theorem ldB (x : Reg) : Statement (.ldB x) :=
  of_row ⟨"LD_B__Vx", 0xF0FF, 0xF033⟩ (by decide) rfl ((formatFXK_and_low _ x _).trans rfl)

theorem storeRegs (x : Reg) : Statement (.storeRegs x) :=
  of_row ⟨"LD__I___Vx", 0xF0FF, 0xF055⟩ (by decide) rfl ((formatFXK_and_low _ x _).trans rfl)

theorem loadRegs (x : Reg) : Statement (.loadRegs x) :=
  of_row ⟨"LD_Vx___I", 0xF0FF, 0xF065⟩ (by decide) rfl ((formatFXK_and_low _ x _).trans rfl)

end Sys2Proof.Laws.EncodeRow
end

