-- ==== Sys2Proof/Laws/State.lean ====
section
/-! SUPPORT. The small lemmas of State: what each update leaves in each field, what it leaves in each register, and that
setting a register twice keeps the later value. -/

namespace Sys2Proof.Machine

/-! ### `setReg` -/

@[simp] theorem setReg_V (s : State) (r : Reg) (v : Byte) : (s.setReg r v).V = s.V.set r.val v := rfl
@[simp] theorem setReg_I (s : State) (r : Reg) (v : Byte) : (s.setReg r v).I = s.I := rfl
@[simp] theorem setReg_pc (s : State) (r : Reg) (v : Byte) : (s.setReg r v).pc = s.pc := rfl
@[simp] theorem setReg_stack (s : State) (r : Reg) (v : Byte) : (s.setReg r v).stack = s.stack := rfl
@[simp] theorem setReg_sp (s : State) (r : Reg) (v : Byte) : (s.setReg r v).sp = s.sp := rfl
@[simp] theorem setReg_DT (s : State) (r : Reg) (v : Byte) : (s.setReg r v).DT = s.DT := rfl
@[simp] theorem setReg_ST (s : State) (r : Reg) (v : Byte) : (s.setReg r v).ST = s.ST := rfl
@[simp] theorem setReg_latch (s : State) (r : Reg) (v : Byte) : (s.setReg r v).latch = s.latch := rfl
@[simp] theorem setReg_running (s : State) (r : Reg) (v : Byte) : (s.setReg r v).running = s.running := rfl
@[simp] theorem setReg_fault (s : State) (r : Reg) (v : Byte) : (s.setReg r v).fault = s.fault := rfl
@[simp] theorem setReg_frameStep (s : State) (r : Reg) (v : Byte) : (s.setReg r v).frameStep = s.frameStep := rfl
@[simp] theorem setReg_memory (s : State) (r : Reg) (v : Byte) : (s.setReg r v).memory = s.memory := rfl
@[simp] theorem setReg_display (s : State) (r : Reg) (v : Byte) : (s.setReg r v).display = s.display := rfl
@[simp] theorem setReg_inputs (s : State) (r : Reg) (v : Byte) : (s.setReg r v).inputs = s.inputs := rfl

/-! ### `setRegs` -/

@[simp] theorem setRegs_V (s : State) (W : RegFile) : (s.setRegs W).V = W := rfl
@[simp] theorem setRegs_I (s : State) (W : RegFile) : (s.setRegs W).I = s.I := rfl
@[simp] theorem setRegs_pc (s : State) (W : RegFile) : (s.setRegs W).pc = s.pc := rfl
@[simp] theorem setRegs_stack (s : State) (W : RegFile) : (s.setRegs W).stack = s.stack := rfl
@[simp] theorem setRegs_sp (s : State) (W : RegFile) : (s.setRegs W).sp = s.sp := rfl
@[simp] theorem setRegs_DT (s : State) (W : RegFile) : (s.setRegs W).DT = s.DT := rfl
@[simp] theorem setRegs_ST (s : State) (W : RegFile) : (s.setRegs W).ST = s.ST := rfl
@[simp] theorem setRegs_latch (s : State) (W : RegFile) : (s.setRegs W).latch = s.latch := rfl
@[simp] theorem setRegs_running (s : State) (W : RegFile) : (s.setRegs W).running = s.running := rfl
@[simp] theorem setRegs_fault (s : State) (W : RegFile) : (s.setRegs W).fault = s.fault := rfl
@[simp] theorem setRegs_frameStep (s : State) (W : RegFile) : (s.setRegs W).frameStep = s.frameStep := rfl
@[simp] theorem setRegs_memory (s : State) (W : RegFile) : (s.setRegs W).memory = s.memory := rfl
@[simp] theorem setRegs_display (s : State) (W : RegFile) : (s.setRegs W).display = s.display := rfl
@[simp] theorem setRegs_inputs (s : State) (W : RegFile) : (s.setRegs W).inputs = s.inputs := rfl

/-! ### `setI` -/

@[simp] theorem setI_V (s : State) (a : Word16) : (s.setI a).V = s.V := rfl
@[simp] theorem setI_I (s : State) (a : Word16) : (s.setI a).I = a := rfl
@[simp] theorem setI_pc (s : State) (a : Word16) : (s.setI a).pc = s.pc := rfl
@[simp] theorem setI_stack (s : State) (a : Word16) : (s.setI a).stack = s.stack := rfl
@[simp] theorem setI_sp (s : State) (a : Word16) : (s.setI a).sp = s.sp := rfl
@[simp] theorem setI_DT (s : State) (a : Word16) : (s.setI a).DT = s.DT := rfl
@[simp] theorem setI_ST (s : State) (a : Word16) : (s.setI a).ST = s.ST := rfl
@[simp] theorem setI_latch (s : State) (a : Word16) : (s.setI a).latch = s.latch := rfl
@[simp] theorem setI_running (s : State) (a : Word16) : (s.setI a).running = s.running := rfl
@[simp] theorem setI_fault (s : State) (a : Word16) : (s.setI a).fault = s.fault := rfl
@[simp] theorem setI_frameStep (s : State) (a : Word16) : (s.setI a).frameStep = s.frameStep := rfl
@[simp] theorem setI_memory (s : State) (a : Word16) : (s.setI a).memory = s.memory := rfl
@[simp] theorem setI_display (s : State) (a : Word16) : (s.setI a).display = s.display := rfl
@[simp] theorem setI_inputs (s : State) (a : Word16) : (s.setI a).inputs = s.inputs := rfl
@[simp] theorem setI_reg (s : State) (a : Word16) (q : Reg) :
    (s.setI a).reg q = s.reg q := rfl

/-! ### `setPc` -/

@[simp] theorem setPc_V (s : State) (a : Word16) : (s.setPc a).V = s.V := rfl
@[simp] theorem setPc_I (s : State) (a : Word16) : (s.setPc a).I = s.I := rfl
@[simp] theorem setPc_pc (s : State) (a : Word16) : (s.setPc a).pc = a := rfl
@[simp] theorem setPc_stack (s : State) (a : Word16) : (s.setPc a).stack = s.stack := rfl
@[simp] theorem setPc_sp (s : State) (a : Word16) : (s.setPc a).sp = s.sp := rfl
@[simp] theorem setPc_DT (s : State) (a : Word16) : (s.setPc a).DT = s.DT := rfl
@[simp] theorem setPc_ST (s : State) (a : Word16) : (s.setPc a).ST = s.ST := rfl
@[simp] theorem setPc_latch (s : State) (a : Word16) : (s.setPc a).latch = s.latch := rfl
@[simp] theorem setPc_running (s : State) (a : Word16) : (s.setPc a).running = s.running := rfl
@[simp] theorem setPc_fault (s : State) (a : Word16) : (s.setPc a).fault = s.fault := rfl
@[simp] theorem setPc_frameStep (s : State) (a : Word16) : (s.setPc a).frameStep = s.frameStep := rfl
@[simp] theorem setPc_memory (s : State) (a : Word16) : (s.setPc a).memory = s.memory := rfl
@[simp] theorem setPc_display (s : State) (a : Word16) : (s.setPc a).display = s.display := rfl
@[simp] theorem setPc_inputs (s : State) (a : Word16) : (s.setPc a).inputs = s.inputs := rfl
@[simp] theorem setPc_reg (s : State) (a : Word16) (q : Reg) :
    (s.setPc a).reg q = s.reg q := rfl

/-! ### `setDT` -/

@[simp] theorem setDT_V (s : State) (v : Byte) : (s.setDT v).V = s.V := rfl
@[simp] theorem setDT_I (s : State) (v : Byte) : (s.setDT v).I = s.I := rfl
@[simp] theorem setDT_pc (s : State) (v : Byte) : (s.setDT v).pc = s.pc := rfl
@[simp] theorem setDT_stack (s : State) (v : Byte) : (s.setDT v).stack = s.stack := rfl
@[simp] theorem setDT_sp (s : State) (v : Byte) : (s.setDT v).sp = s.sp := rfl
@[simp] theorem setDT_DT (s : State) (v : Byte) : (s.setDT v).DT = v := rfl
@[simp] theorem setDT_ST (s : State) (v : Byte) : (s.setDT v).ST = s.ST := rfl
@[simp] theorem setDT_latch (s : State) (v : Byte) : (s.setDT v).latch = s.latch := rfl
@[simp] theorem setDT_running (s : State) (v : Byte) : (s.setDT v).running = s.running := rfl
@[simp] theorem setDT_fault (s : State) (v : Byte) : (s.setDT v).fault = s.fault := rfl
@[simp] theorem setDT_frameStep (s : State) (v : Byte) : (s.setDT v).frameStep = s.frameStep := rfl
@[simp] theorem setDT_memory (s : State) (v : Byte) : (s.setDT v).memory = s.memory := rfl
@[simp] theorem setDT_display (s : State) (v : Byte) : (s.setDT v).display = s.display := rfl
@[simp] theorem setDT_inputs (s : State) (v : Byte) : (s.setDT v).inputs = s.inputs := rfl
@[simp] theorem setDT_reg (s : State) (v : Byte) (q : Reg) :
    (s.setDT v).reg q = s.reg q := rfl

/-! ### `setST` -/

@[simp] theorem setST_V (s : State) (v : Byte) : (s.setST v).V = s.V := rfl
@[simp] theorem setST_I (s : State) (v : Byte) : (s.setST v).I = s.I := rfl
@[simp] theorem setST_pc (s : State) (v : Byte) : (s.setST v).pc = s.pc := rfl
@[simp] theorem setST_stack (s : State) (v : Byte) : (s.setST v).stack = s.stack := rfl
@[simp] theorem setST_sp (s : State) (v : Byte) : (s.setST v).sp = s.sp := rfl
@[simp] theorem setST_DT (s : State) (v : Byte) : (s.setST v).DT = s.DT := rfl
@[simp] theorem setST_ST (s : State) (v : Byte) : (s.setST v).ST = v := rfl
@[simp] theorem setST_latch (s : State) (v : Byte) : (s.setST v).latch = s.latch := rfl
@[simp] theorem setST_running (s : State) (v : Byte) : (s.setST v).running = s.running := rfl
@[simp] theorem setST_fault (s : State) (v : Byte) : (s.setST v).fault = s.fault := rfl
@[simp] theorem setST_frameStep (s : State) (v : Byte) : (s.setST v).frameStep = s.frameStep := rfl
@[simp] theorem setST_memory (s : State) (v : Byte) : (s.setST v).memory = s.memory := rfl
@[simp] theorem setST_display (s : State) (v : Byte) : (s.setST v).display = s.display := rfl
@[simp] theorem setST_inputs (s : State) (v : Byte) : (s.setST v).inputs = s.inputs := rfl
@[simp] theorem setST_reg (s : State) (v : Byte) (q : Reg) :
    (s.setST v).reg q = s.reg q := rfl

/-! ### `setLatch` -/

@[simp] theorem setLatch_V (s : State) (l : Latch) : (s.setLatch l).V = s.V := rfl
@[simp] theorem setLatch_I (s : State) (l : Latch) : (s.setLatch l).I = s.I := rfl
@[simp] theorem setLatch_pc (s : State) (l : Latch) : (s.setLatch l).pc = s.pc := rfl
@[simp] theorem setLatch_stack (s : State) (l : Latch) : (s.setLatch l).stack = s.stack := rfl
@[simp] theorem setLatch_sp (s : State) (l : Latch) : (s.setLatch l).sp = s.sp := rfl
@[simp] theorem setLatch_DT (s : State) (l : Latch) : (s.setLatch l).DT = s.DT := rfl
@[simp] theorem setLatch_ST (s : State) (l : Latch) : (s.setLatch l).ST = s.ST := rfl
@[simp] theorem setLatch_latch (s : State) (l : Latch) : (s.setLatch l).latch = l := rfl
@[simp] theorem setLatch_running (s : State) (l : Latch) : (s.setLatch l).running = s.running := rfl
@[simp] theorem setLatch_fault (s : State) (l : Latch) : (s.setLatch l).fault = s.fault := rfl
@[simp] theorem setLatch_frameStep (s : State) (l : Latch) : (s.setLatch l).frameStep = s.frameStep := rfl
@[simp] theorem setLatch_memory (s : State) (l : Latch) : (s.setLatch l).memory = s.memory := rfl
@[simp] theorem setLatch_display (s : State) (l : Latch) : (s.setLatch l).display = s.display := rfl
@[simp] theorem setLatch_inputs (s : State) (l : Latch) : (s.setLatch l).inputs = s.inputs := rfl
@[simp] theorem setLatch_reg (s : State) (l : Latch) (q : Reg) :
    (s.setLatch l).reg q = s.reg q := rfl

/-! ### `setMemory` -/

@[simp] theorem setMemory_V (s : State) (m : Memory) : (s.setMemory m).V = s.V := rfl
@[simp] theorem setMemory_I (s : State) (m : Memory) : (s.setMemory m).I = s.I := rfl
@[simp] theorem setMemory_pc (s : State) (m : Memory) : (s.setMemory m).pc = s.pc := rfl
@[simp] theorem setMemory_stack (s : State) (m : Memory) : (s.setMemory m).stack = s.stack := rfl
@[simp] theorem setMemory_sp (s : State) (m : Memory) : (s.setMemory m).sp = s.sp := rfl
@[simp] theorem setMemory_DT (s : State) (m : Memory) : (s.setMemory m).DT = s.DT := rfl
@[simp] theorem setMemory_ST (s : State) (m : Memory) : (s.setMemory m).ST = s.ST := rfl
@[simp] theorem setMemory_latch (s : State) (m : Memory) : (s.setMemory m).latch = s.latch := rfl
@[simp] theorem setMemory_running (s : State) (m : Memory) : (s.setMemory m).running = s.running := rfl
@[simp] theorem setMemory_fault (s : State) (m : Memory) : (s.setMemory m).fault = s.fault := rfl
@[simp] theorem setMemory_frameStep (s : State) (m : Memory) : (s.setMemory m).frameStep = s.frameStep := rfl
@[simp] theorem setMemory_memory (s : State) (m : Memory) : (s.setMemory m).memory = m := rfl
@[simp] theorem setMemory_display (s : State) (m : Memory) : (s.setMemory m).display = s.display := rfl
@[simp] theorem setMemory_inputs (s : State) (m : Memory) : (s.setMemory m).inputs = s.inputs := rfl
@[simp] theorem setMemory_reg (s : State) (m : Memory) (q : Reg) :
    (s.setMemory m).reg q = s.reg q := rfl

/-! ### `setDisplay` -/

@[simp] theorem setDisplay_V (s : State) (d : Display) : (s.setDisplay d).V = s.V := rfl
@[simp] theorem setDisplay_I (s : State) (d : Display) : (s.setDisplay d).I = s.I := rfl
@[simp] theorem setDisplay_pc (s : State) (d : Display) : (s.setDisplay d).pc = s.pc := rfl
@[simp] theorem setDisplay_stack (s : State) (d : Display) : (s.setDisplay d).stack = s.stack := rfl
@[simp] theorem setDisplay_sp (s : State) (d : Display) : (s.setDisplay d).sp = s.sp := rfl
@[simp] theorem setDisplay_DT (s : State) (d : Display) : (s.setDisplay d).DT = s.DT := rfl
@[simp] theorem setDisplay_ST (s : State) (d : Display) : (s.setDisplay d).ST = s.ST := rfl
@[simp] theorem setDisplay_latch (s : State) (d : Display) : (s.setDisplay d).latch = s.latch := rfl
@[simp] theorem setDisplay_running (s : State) (d : Display) : (s.setDisplay d).running = s.running := rfl
@[simp] theorem setDisplay_fault (s : State) (d : Display) : (s.setDisplay d).fault = s.fault := rfl
@[simp] theorem setDisplay_frameStep (s : State) (d : Display) : (s.setDisplay d).frameStep = s.frameStep := rfl
@[simp] theorem setDisplay_memory (s : State) (d : Display) : (s.setDisplay d).memory = s.memory := rfl
@[simp] theorem setDisplay_display (s : State) (d : Display) : (s.setDisplay d).display = d := rfl
@[simp] theorem setDisplay_inputs (s : State) (d : Display) : (s.setDisplay d).inputs = s.inputs := rfl
@[simp] theorem setDisplay_reg (s : State) (d : Display) (q : Reg) :
    (s.setDisplay d).reg q = s.reg q := rfl

/-! ### `setFrameStep` -/

@[simp] theorem setFrameStep_V (s : State) (j : Nat) : (s.setFrameStep j).V = s.V := rfl
@[simp] theorem setFrameStep_I (s : State) (j : Nat) : (s.setFrameStep j).I = s.I := rfl
@[simp] theorem setFrameStep_pc (s : State) (j : Nat) : (s.setFrameStep j).pc = s.pc := rfl
@[simp] theorem setFrameStep_stack (s : State) (j : Nat) : (s.setFrameStep j).stack = s.stack := rfl
@[simp] theorem setFrameStep_sp (s : State) (j : Nat) : (s.setFrameStep j).sp = s.sp := rfl
@[simp] theorem setFrameStep_DT (s : State) (j : Nat) : (s.setFrameStep j).DT = s.DT := rfl
@[simp] theorem setFrameStep_ST (s : State) (j : Nat) : (s.setFrameStep j).ST = s.ST := rfl
@[simp] theorem setFrameStep_latch (s : State) (j : Nat) : (s.setFrameStep j).latch = s.latch := rfl
@[simp] theorem setFrameStep_running (s : State) (j : Nat) : (s.setFrameStep j).running = s.running := rfl
@[simp] theorem setFrameStep_fault (s : State) (j : Nat) : (s.setFrameStep j).fault = s.fault := rfl
@[simp] theorem setFrameStep_frameStep (s : State) (j : Nat) : (s.setFrameStep j).frameStep = j := rfl
@[simp] theorem setFrameStep_memory (s : State) (j : Nat) : (s.setFrameStep j).memory = s.memory := rfl
@[simp] theorem setFrameStep_display (s : State) (j : Nat) : (s.setFrameStep j).display = s.display := rfl
@[simp] theorem setFrameStep_inputs (s : State) (j : Nat) : (s.setFrameStep j).inputs = s.inputs := rfl
@[simp] theorem setFrameStep_reg (s : State) (j : Nat) (q : Reg) :
    (s.setFrameStep j).reg q = s.reg q := rfl

/-! ### `answered` -/

@[simp] theorem answered_V (s : State) : (s.answered).V = s.V := rfl
@[simp] theorem answered_I (s : State) : (s.answered).I = s.I := rfl
@[simp] theorem answered_pc (s : State) : (s.answered).pc = s.pc := rfl
@[simp] theorem answered_stack (s : State) : (s.answered).stack = s.stack := rfl
@[simp] theorem answered_sp (s : State) : (s.answered).sp = s.sp := rfl
@[simp] theorem answered_DT (s : State) : (s.answered).DT = s.DT := rfl
@[simp] theorem answered_ST (s : State) : (s.answered).ST = s.ST := rfl
@[simp] theorem answered_latch (s : State) : (s.answered).latch = s.latch := rfl
@[simp] theorem answered_running (s : State) : (s.answered).running = s.running := rfl
@[simp] theorem answered_fault (s : State) : (s.answered).fault = s.fault := rfl
@[simp] theorem answered_frameStep (s : State) : (s.answered).frameStep = s.frameStep := rfl
@[simp] theorem answered_memory (s : State) : (s.answered).memory = s.memory := rfl
@[simp] theorem answered_display (s : State) : (s.answered).display = s.display := rfl
@[simp] theorem answered_inputs (s : State) : (s.answered).inputs = s.inputs + 1 := rfl
@[simp] theorem answered_reg (s : State) (q : Reg) :
    (s.answered).reg q = s.reg q := rfl

/-! ### `next` -/

@[simp] theorem next_V (s : State) : (s.next).V = s.V := rfl
@[simp] theorem next_I (s : State) : (s.next).I = s.I := rfl
@[simp] theorem next_pc (s : State) : (s.next).pc = s.pc + 2 := rfl
@[simp] theorem next_stack (s : State) : (s.next).stack = s.stack := rfl
@[simp] theorem next_sp (s : State) : (s.next).sp = s.sp := rfl
@[simp] theorem next_DT (s : State) : (s.next).DT = s.DT := rfl
@[simp] theorem next_ST (s : State) : (s.next).ST = s.ST := rfl
@[simp] theorem next_latch (s : State) : (s.next).latch = s.latch := rfl
@[simp] theorem next_running (s : State) : (s.next).running = s.running := rfl
@[simp] theorem next_fault (s : State) : (s.next).fault = s.fault := rfl
@[simp] theorem next_frameStep (s : State) : (s.next).frameStep = s.frameStep := rfl
@[simp] theorem next_memory (s : State) : (s.next).memory = s.memory := rfl
@[simp] theorem next_display (s : State) : (s.next).display = s.display := rfl
@[simp] theorem next_inputs (s : State) : (s.next).inputs = s.inputs := rfl
@[simp] theorem next_reg (s : State) (q : Reg) :
    (s.next).reg q = s.reg q := rfl

/-! ### `skipIf` -/

@[simp] theorem skipIf_V (s : State) (c : Bool) : (s.skipIf c).V = s.V := rfl
@[simp] theorem skipIf_I (s : State) (c : Bool) : (s.skipIf c).I = s.I := rfl
@[simp] theorem skipIf_pc (s : State) (c : Bool) : (s.skipIf c).pc = if c then s.pc + 4 else s.pc + 2 := rfl
@[simp] theorem skipIf_stack (s : State) (c : Bool) : (s.skipIf c).stack = s.stack := rfl
@[simp] theorem skipIf_sp (s : State) (c : Bool) : (s.skipIf c).sp = s.sp := rfl
@[simp] theorem skipIf_DT (s : State) (c : Bool) : (s.skipIf c).DT = s.DT := rfl
@[simp] theorem skipIf_ST (s : State) (c : Bool) : (s.skipIf c).ST = s.ST := rfl
@[simp] theorem skipIf_latch (s : State) (c : Bool) : (s.skipIf c).latch = s.latch := rfl
@[simp] theorem skipIf_running (s : State) (c : Bool) : (s.skipIf c).running = s.running := rfl
@[simp] theorem skipIf_fault (s : State) (c : Bool) : (s.skipIf c).fault = s.fault := rfl
@[simp] theorem skipIf_frameStep (s : State) (c : Bool) : (s.skipIf c).frameStep = s.frameStep := rfl
@[simp] theorem skipIf_memory (s : State) (c : Bool) : (s.skipIf c).memory = s.memory := rfl
@[simp] theorem skipIf_display (s : State) (c : Bool) : (s.skipIf c).display = s.display := rfl
@[simp] theorem skipIf_inputs (s : State) (c : Bool) : (s.skipIf c).inputs = s.inputs := rfl
@[simp] theorem skipIf_reg (s : State) (c : Bool) (q : Reg) :
    (s.skipIf c).reg q = s.reg q := rfl

/-! ### `setResultFlag` -/

@[simp] theorem setResultFlag_V (s : State) (x : Reg) (v f : Byte) :
    (s.setResultFlag x v f).V = (s.V.set x.val v).set 15 f := rfl
@[simp] theorem setResultFlag_I (s : State) (x : Reg) (v f : Byte) : (s.setResultFlag x v f).I = s.I := rfl
@[simp] theorem setResultFlag_pc (s : State) (x : Reg) (v f : Byte) : (s.setResultFlag x v f).pc = s.pc + 2 := rfl
@[simp] theorem setResultFlag_stack (s : State) (x : Reg) (v f : Byte) :
    (s.setResultFlag x v f).stack = s.stack := rfl
@[simp] theorem setResultFlag_sp (s : State) (x : Reg) (v f : Byte) : (s.setResultFlag x v f).sp = s.sp := rfl
@[simp] theorem setResultFlag_DT (s : State) (x : Reg) (v f : Byte) : (s.setResultFlag x v f).DT = s.DT := rfl
@[simp] theorem setResultFlag_ST (s : State) (x : Reg) (v f : Byte) : (s.setResultFlag x v f).ST = s.ST := rfl
@[simp] theorem setResultFlag_latch (s : State) (x : Reg) (v f : Byte) :
    (s.setResultFlag x v f).latch = s.latch := rfl
@[simp] theorem setResultFlag_running (s : State) (x : Reg) (v f : Byte) :
    (s.setResultFlag x v f).running = s.running := rfl
@[simp] theorem setResultFlag_fault (s : State) (x : Reg) (v f : Byte) :
    (s.setResultFlag x v f).fault = s.fault := rfl
@[simp] theorem setResultFlag_frameStep (s : State) (x : Reg) (v f : Byte) :
    (s.setResultFlag x v f).frameStep = s.frameStep := rfl
@[simp] theorem setResultFlag_memory (s : State) (x : Reg) (v f : Byte) :
    (s.setResultFlag x v f).memory = s.memory := rfl
@[simp] theorem setResultFlag_display (s : State) (x : Reg) (v f : Byte) :
    (s.setResultFlag x v f).display = s.display := rfl
@[simp] theorem setResultFlag_inputs (s : State) (x : Reg) (v f : Byte) :
    (s.setResultFlag x v f).inputs = s.inputs := rfl

/-! ### `push` -/

@[simp] theorem push_V (s : State) (a : Word16) (h : s.sp.val < Config.stackDepth) : (s.push a h).V = s.V := rfl
@[simp] theorem push_I (s : State) (a : Word16) (h : s.sp.val < Config.stackDepth) : (s.push a h).I = s.I := rfl
@[simp] theorem push_pc (s : State) (a : Word16) (h : s.sp.val < Config.stackDepth) : (s.push a h).pc = s.pc := rfl
@[simp] theorem push_stack (s : State) (a : Word16) (h : s.sp.val < Config.stackDepth) :
    (s.push a h).stack = s.stack.set s.sp.val a h := rfl
@[simp] theorem push_sp (s : State) (a : Word16) (h : s.sp.val < Config.stackDepth) :
    (s.push a h).sp = ⟨s.sp.val + 1, Nat.succ_lt_succ h⟩ := rfl
@[simp] theorem push_DT (s : State) (a : Word16) (h : s.sp.val < Config.stackDepth) : (s.push a h).DT = s.DT := rfl
@[simp] theorem push_ST (s : State) (a : Word16) (h : s.sp.val < Config.stackDepth) : (s.push a h).ST = s.ST := rfl
@[simp] theorem push_latch (s : State) (a : Word16) (h : s.sp.val < Config.stackDepth) :
    (s.push a h).latch = s.latch := rfl
@[simp] theorem push_running (s : State) (a : Word16) (h : s.sp.val < Config.stackDepth) :
    (s.push a h).running = s.running := rfl
@[simp] theorem push_fault (s : State) (a : Word16) (h : s.sp.val < Config.stackDepth) :
    (s.push a h).fault = s.fault := rfl
@[simp] theorem push_frameStep (s : State) (a : Word16) (h : s.sp.val < Config.stackDepth) :
    (s.push a h).frameStep = s.frameStep := rfl
@[simp] theorem push_memory (s : State) (a : Word16) (h : s.sp.val < Config.stackDepth) :
    (s.push a h).memory = s.memory := rfl
@[simp] theorem push_display (s : State) (a : Word16) (h : s.sp.val < Config.stackDepth) :
    (s.push a h).display = s.display := rfl
@[simp] theorem push_inputs (s : State) (a : Word16) (h : s.sp.val < Config.stackDepth) :
    (s.push a h).inputs = s.inputs := rfl
@[simp] theorem push_reg (s : State) (a : Word16) (h : s.sp.val < Config.stackDepth) (q : Reg) :
    (s.push a h).reg q = s.reg q := rfl

/-! ### `pop` -/

@[simp] theorem pop_V (s : State) : (s.pop).V = s.V := rfl
@[simp] theorem pop_I (s : State) : (s.pop).I = s.I := rfl
@[simp] theorem pop_pc (s : State) : (s.pop).pc = s.pc := rfl
@[simp] theorem pop_stack (s : State) : (s.pop).stack = s.stack := rfl
@[simp] theorem pop_sp (s : State) : (s.pop).sp = ⟨s.sp.val - 1, Nat.lt_of_le_of_lt (Nat.sub_le _ _) s.sp.isLt⟩ := rfl
@[simp] theorem pop_DT (s : State) : (s.pop).DT = s.DT := rfl
@[simp] theorem pop_ST (s : State) : (s.pop).ST = s.ST := rfl
@[simp] theorem pop_latch (s : State) : (s.pop).latch = s.latch := rfl
@[simp] theorem pop_running (s : State) : (s.pop).running = s.running := rfl
@[simp] theorem pop_fault (s : State) : (s.pop).fault = s.fault := rfl
@[simp] theorem pop_frameStep (s : State) : (s.pop).frameStep = s.frameStep := rfl
@[simp] theorem pop_memory (s : State) : (s.pop).memory = s.memory := rfl
@[simp] theorem pop_display (s : State) : (s.pop).display = s.display := rfl
@[simp] theorem pop_inputs (s : State) : (s.pop).inputs = s.inputs := rfl
@[simp] theorem pop_reg (s : State) (q : Reg) :
    (s.pop).reg q = s.reg q := rfl

/-! ### `raise` -/

@[simp] theorem raise_V (s : State) (e : FatalError) (w : Option Word16) : (s.raise e w).V = s.V := rfl
@[simp] theorem raise_I (s : State) (e : FatalError) (w : Option Word16) : (s.raise e w).I = s.I := rfl
@[simp] theorem raise_pc (s : State) (e : FatalError) (w : Option Word16) : (s.raise e w).pc = s.pc := rfl
@[simp] theorem raise_stack (s : State) (e : FatalError) (w : Option Word16) : (s.raise e w).stack = s.stack := rfl
@[simp] theorem raise_sp (s : State) (e : FatalError) (w : Option Word16) : (s.raise e w).sp = s.sp := rfl
@[simp] theorem raise_DT (s : State) (e : FatalError) (w : Option Word16) : (s.raise e w).DT = s.DT := rfl
@[simp] theorem raise_ST (s : State) (e : FatalError) (w : Option Word16) : (s.raise e w).ST = s.ST := rfl
@[simp] theorem raise_latch (s : State) (e : FatalError) (w : Option Word16) : (s.raise e w).latch = s.latch := rfl
@[simp] theorem raise_running (s : State) (e : FatalError) (w : Option Word16) :
    (s.raise e w).running = s.running := rfl
@[simp] theorem raise_fault (s : State) (e : FatalError) (w : Option Word16) :
    (s.raise e w).fault = some ⟨e, s.pc, w⟩ := rfl
@[simp] theorem raise_frameStep (s : State) (e : FatalError) (w : Option Word16) :
    (s.raise e w).frameStep = s.frameStep := rfl
@[simp] theorem raise_memory (s : State) (e : FatalError) (w : Option Word16) : (s.raise e w).memory = s.memory := rfl
@[simp] theorem raise_display (s : State) (e : FatalError) (w : Option Word16) :
    (s.raise e w).display = s.display := rfl
@[simp] theorem raise_inputs (s : State) (e : FatalError) (w : Option Word16) : (s.raise e w).inputs = s.inputs := rfl
@[simp] theorem raise_reg (s : State) (e : FatalError) (w : Option Word16) (q : Reg) :
    (s.raise e w).reg q = s.reg q := rfl

/-! ### `requestStop` -/

@[simp] theorem requestStop_V (s : State) : (s.requestStop).V = s.V := rfl
@[simp] theorem requestStop_I (s : State) : (s.requestStop).I = s.I := rfl
@[simp] theorem requestStop_pc (s : State) : (s.requestStop).pc = s.pc := rfl
@[simp] theorem requestStop_stack (s : State) : (s.requestStop).stack = s.stack := rfl
@[simp] theorem requestStop_sp (s : State) : (s.requestStop).sp = s.sp := rfl
@[simp] theorem requestStop_DT (s : State) : (s.requestStop).DT = s.DT := rfl
@[simp] theorem requestStop_ST (s : State) : (s.requestStop).ST = s.ST := rfl
@[simp] theorem requestStop_latch (s : State) : (s.requestStop).latch = s.latch := rfl
@[simp] theorem requestStop_running (s : State) : (s.requestStop).running = false := rfl
@[simp] theorem requestStop_fault (s : State) : (s.requestStop).fault = s.fault := rfl
@[simp] theorem requestStop_frameStep (s : State) : (s.requestStop).frameStep = s.frameStep := rfl
@[simp] theorem requestStop_memory (s : State) : (s.requestStop).memory = s.memory := rfl
@[simp] theorem requestStop_display (s : State) : (s.requestStop).display = s.display := rfl
@[simp] theorem requestStop_inputs (s : State) : (s.requestStop).inputs = s.inputs := rfl
@[simp] theorem requestStop_reg (s : State) (q : Reg) :
    (s.requestStop).reg q = s.reg q := rfl

/-! ### `shutDown` -/

@[simp] theorem shutDown_V (s : State) : (s.shutDown).V = s.V := rfl
@[simp] theorem shutDown_I (s : State) : (s.shutDown).I = s.I := rfl
@[simp] theorem shutDown_pc (s : State) : (s.shutDown).pc = s.pc := rfl
@[simp] theorem shutDown_stack (s : State) : (s.shutDown).stack = s.stack := rfl
@[simp] theorem shutDown_sp (s : State) : (s.shutDown).sp = s.sp := rfl
@[simp] theorem shutDown_DT (s : State) : (s.shutDown).DT = s.DT := rfl
@[simp] theorem shutDown_ST (s : State) : (s.shutDown).ST = s.ST := rfl
@[simp] theorem shutDown_latch (s : State) : (s.shutDown).latch = s.latch := rfl
@[simp] theorem shutDown_running (s : State) : (s.shutDown).running = s.running := rfl
@[simp] theorem shutDown_fault (s : State) : (s.shutDown).fault = s.fault := rfl
@[simp] theorem shutDown_frameStep (s : State) : (s.shutDown).frameStep = s.frameStep := rfl
@[simp] theorem shutDown_memory (s : State) : (s.shutDown).memory = s.memory := rfl
@[simp] theorem shutDown_display (s : State) : (s.shutDown).display = s.display.shutdown := rfl
@[simp] theorem shutDown_inputs (s : State) : (s.shutDown).inputs = s.inputs := rfl
@[simp] theorem shutDown_reg (s : State) (q : Reg) :
    (s.shutDown).reg q = s.reg q := rfl

/-! ### `presented` -/

@[simp] theorem presented_V (s : State) : (s.presented).V = s.V := rfl
@[simp] theorem presented_I (s : State) : (s.presented).I = s.I := rfl
@[simp] theorem presented_pc (s : State) : (s.presented).pc = s.pc := rfl
@[simp] theorem presented_stack (s : State) : (s.presented).stack = s.stack := rfl
@[simp] theorem presented_sp (s : State) : (s.presented).sp = s.sp := rfl
@[simp] theorem presented_DT (s : State) : (s.presented).DT = s.DT := rfl
@[simp] theorem presented_ST (s : State) : (s.presented).ST = s.ST := rfl
@[simp] theorem presented_latch (s : State) : (s.presented).latch = s.latch := rfl
@[simp] theorem presented_running (s : State) : (s.presented).running = s.running := rfl
@[simp] theorem presented_fault (s : State) : (s.presented).fault = s.fault := rfl
@[simp] theorem presented_frameStep (s : State) : (s.presented).frameStep = s.frameStep := rfl
@[simp] theorem presented_memory (s : State) : (s.presented).memory = s.memory := rfl
@[simp] theorem presented_display (s : State) : (s.presented).display = s.display.present := rfl
@[simp] theorem presented_inputs (s : State) : (s.presented).inputs = s.inputs := rfl
@[simp] theorem presented_reg (s : State) (q : Reg) :
    (s.presented).reg q = s.reg q := rfl

/-! ### `tick` -/

@[simp] theorem tick_V (s : State) : (s.tick).V = s.V := rfl
@[simp] theorem tick_I (s : State) : (s.tick).I = s.I := rfl
@[simp] theorem tick_pc (s : State) : (s.tick).pc = s.pc := rfl
@[simp] theorem tick_stack (s : State) : (s.tick).stack = s.stack := rfl
@[simp] theorem tick_sp (s : State) : (s.tick).sp = s.sp := rfl
@[simp] theorem tick_DT (s : State) : (s.tick).DT = countDown s.DT := rfl
@[simp] theorem tick_ST (s : State) : (s.tick).ST = countDown s.ST := rfl
@[simp] theorem tick_latch (s : State) : (s.tick).latch = s.latch := rfl
@[simp] theorem tick_running (s : State) : (s.tick).running = s.running := rfl
@[simp] theorem tick_fault (s : State) : (s.tick).fault = s.fault := rfl
@[simp] theorem tick_frameStep (s : State) : (s.tick).frameStep = s.frameStep := rfl
@[simp] theorem tick_memory (s : State) : (s.tick).memory = s.memory := rfl
@[simp] theorem tick_display (s : State) : (s.tick).display = s.display := rfl
@[simp] theorem tick_inputs (s : State) : (s.tick).inputs = s.inputs := rfl
@[simp] theorem tick_reg (s : State) (q : Reg) :
    (s.tick).reg q = s.reg q := rfl

/-! ### Registers (rule R22) -/

/-- Rule R22: a register reads as the value last set, and no other register changes. -/
@[simp] theorem setReg_reg (s : State) (r : Reg) (v : Byte) (q : Reg) :
    (s.setReg r v).reg q = if q = r then v else s.reg q := by
  simp only [State.reg, State.setReg, Vector.getElem_set, Fin.ext_iff, eq_comm]

/-- Rule R180: the flag is the later of the two writes. -/
@[simp] theorem setResultFlag_reg (s : State) (x : Reg) (v f : Byte) (q : Reg) :
    (s.setResultFlag x v f).reg q = if q = Config.flagRegister then f else if q = x then v else s.reg q := by
  simp [State.setResultFlag]

@[simp] theorem setRegs_reg (s : State) (W : RegFile) (q : Reg) : (s.setRegs W).reg q = W[q.val] := rfl

/-- Two states agree in all registers exactly when their register files are equal. -/
theorem regs_ext {s t : State} (h : ∀ r, s.reg r = t.reg r) : s.V = t.V :=
  Vector.ext fun k hk => h ⟨k, hk⟩

/-! ### The moves of the scheduler -/

/-- `initialize()` touches the display only. -/
theorem initialized_eq (s : State) : s.initialized = s.setDisplay s.initialized.display := by
  unfold State.initialized; split <;> rfl

/-- What `endOfStep` does: nothing after a fatal error; present, tick and a new frame after the last step; else it counts the
step. -/
theorem endOfStep_cases (t : State) :
    (t.fault.isSome ∧ t.endOfStep = t) ∨
    (t.fault = none ∧ Config.stepsPerFrame ≤ t.frameStep + 1 ∧
      t.endOfStep = t.presented.tick.setFrameStep 0) ∨
    (t.fault = none ∧ t.frameStep + 1 < Config.stepsPerFrame ∧
      t.endOfStep = t.setFrameStep (t.frameStep + 1)) := by
  unfold State.endOfStep
  cases h : t.fault with
  | some r => simp
  | none =>
    by_cases h' : Config.stepsPerFrame ≤ t.frameStep + 1
    · simp [h']
    · simp [h']; omega

end Sys2Proof.Machine
end

