-- ==== Sys2Proof/Laws/Step.lean ====
section
/-! SUPPORT. What a fetch, a step and the end of a step can do, said once: a later proof takes a step apart with `step_cases`
and `endOfStep_cases` instead of unfolding them. -/

namespace Sys2Proof.Machine

/-! ### Fetching (rules R65, R121) -/

/-- Where both bytes exist, the fetch joins them. -/
theorem fetch_of_lt {s : State} (h : s.pc.toNat + 1 < Config.memSize) :
    s.fetch = .ok (joinBytes (s.memory.read s.pc.toNat) (s.memory.read (s.pc.toNat + 1))) := by
  unfold State.fetch fetchAt
  rw [memRead_of_lt (by omega)]
  simp only
  rw [memRead_of_lt h]

/-- Where one of them does not, the first that does not is reported. -/
theorem fetch_of_le {s : State} (h : Config.memSize ≤ s.pc.toNat + 1) :
    s.fetch = .error (.outOfBoundsMemoryAccess (max s.pc.toNat Config.memSize)) := by
  unfold State.fetch fetchAt
  by_cases h' : Config.memSize ≤ s.pc.toNat
  · rw [memRead_of_le h', Nat.max_eq_left h']
  · rw [memRead_of_lt (by omega)]
    simp only
    rw [memRead_of_le h, show s.pc.toNat + 1 = max s.pc.toNat Config.memSize by omega]

/-- A fetch that succeeds finds both bytes inside memory. -/
theorem lt_of_fetch {s : State} {w : Word16} (h : s.fetch = .ok w) : s.pc.toNat + 1 < Config.memSize := by
  by_contra hc
  rw [fetch_of_le (by omega)] at h
  cases h

/-- A fetch depends on memory and `pc` only. -/
theorem fetch_congr {s t : State} (hm : t.memory = s.memory) (hp : t.pc = s.pc) : t.fetch = s.fetch := by
  unfold State.fetch
  rw [hm, hp]

/-! ### The loop around a step (rules R232, R238, R239) -/

theorem initialized_fetch (s : State) : s.initialized.fetch = s.fetch := by
  rw [initialized_eq]
  rfl

theorem initialized_haltsHere (s : State) : s.initialized.haltsHere = s.haltsHere := by
  rw [initialized_eq]
  rfl

/-- `initialize` that is still due (rule R252). -/
theorem initialized_of_unprepared {s : State} (h : s.display.surface = .unprepared) :
    s.initialized = s.setDisplay s.display.initialize := if_pos h

/-- `initialize` that is not. -/
theorem initialized_of_ne {s : State} (h : s.display.surface ≠ .unprepared) : s.initialized = s := if_neg h

/-- A live machine is ready for its step once `initialize` is done. -/
theorem initialized_surface {s : State} (h : s.Live) : s.initialized.display.surface = .ready := by
  cases hs : s.display.surface with
  | unprepared =>
    rw [initialized_of_unprepared hs]
    rfl
  | ready => rw [initialized_of_ne (fun h' => nomatch hs.symm.trans h'), hs]
  | restored => exact absurd hs h.2

/-- `initialize` done leaves none due. -/
theorem initialized_initialized {s : State} (h : s.Live) : s.initialized.initialized = s.initialized :=
  initialized_of_ne fun h' => nomatch (initialized_surface h).symm.trans h'

theorem initialized_live {s : State} (h : s.Live) : s.initialized.Live :=
  ⟨by rw [initialized_eq]; exact h.1, fun h' => nomatch (initialized_surface h).symm.trans h'⟩

/-- A live machine makes a move of the loop. -/
theorem step_of_live {s : State} (h : s.Live) : step s = loopStep s := by
  unfold step
  rw [h.1]
  simp only
  rw [if_neg h.2]

/-- Away from a halting frame boundary that move is a step. -/
theorem loopStep_of_not_halts {s : State} (h : s.haltsHere = false) : loopStep s = scheduledStep s.initialized := by
  unfold loopStep
  rw [initialized_haltsHere, h]
  rfl

/-- After a fatal error the scheduler does nothing. -/
theorem endOfStep_of_fault {s : State} {r : FaultRecord} (h : s.fault = some r) : s.endOfStep = s := by
  unfold State.endOfStep
  simp [h]

/-- The end of a step writes the timers, `frame_step` and the display, and nothing else. -/
theorem endOfStep_eq (t : State) :
    t.endOfStep = { t with DT := t.endOfStep.DT, ST := t.endOfStep.ST, frameStep := t.endOfStep.frameStep,
                           display := t.endOfStep.display } := by
  rcases endOfStep_cases t with ⟨_, h⟩ | ⟨_, _, h⟩ | ⟨_, _, h⟩ <;> rw [h] <;> rfl

@[simp] theorem endOfStep_fault (t : State) : t.endOfStep.fault = t.fault := by
  rw [endOfStep_eq]

@[simp] theorem endOfStep_surface (t : State) : t.endOfStep.display.surface = t.display.surface := by
  rcases endOfStep_cases t with ⟨_, h⟩ | ⟨_, _, h⟩ | ⟨_, _, h⟩ <;> rw [h] <;> rfl

/-- A step whose fetch fails. -/
theorem scheduledStep_of_fetch_error {s : State} {e : FatalError} (h : s.fetch = .error e) :
    scheduledStep s = .next (s.raise e none) := by
  unfold scheduledStep instructionStep
  rw [h]
  simp only
  rw [endOfStep_of_fault rfl]

/-- A step whose word is illegal. -/
theorem scheduledStep_of_illegal {s : State} {w : Word16} {d : DecodeError} (h : s.fetch = .ok w)
    (hd : decodeWord w = .error d) : scheduledStep s = .next (s.raise (.illegalInstruction w) (some w)) := by
  unfold scheduledStep instructionStep
  rw [h]
  simp only [hd]
  rw [endOfStep_of_fault rfl]

/-- A step that runs an instruction. -/
theorem scheduledStep_of_exec {s t : State} {w : Word16} {i : Instr} (h : s.fetch = .ok w) (hd : decodeWord w = .ok i)
    (ht : exec i s = .next t) : scheduledStep s = .next t.endOfStep := by
  unfold scheduledStep instructionStep
  rw [h]
  simp only [hd, ht]

/-! ### One instruction, one step -/

/-- No instruction faults or refuses: each answers a next state, in which a fatal error is a record. -/
theorem exec_next (i : Instr) (s : State) : ∃ t, exec i s = .next t := by
  cases i <;> exact ⟨_, rfl⟩

/-- No instruction touches the presentation surface: only the scheduler prepares and restores it (rules R252, R263). -/
theorem exec_surface {i : Instr} {s t : State} (h : exec i s = .next t) : t.display.surface = s.display.surface := by
  cases i <;> cases h
  case ret | call | drw => split <;> rfl
  case ldB | storeRegs | loadRegs => unfold State.orRaise; split <;> rfl
  case skp | sknp => unfold State.keyQueried; split <;> rfl
  case ldVxK => unfold State.awaitPress State.awaitRelease; split <;> split <;> rfl
  all_goals rfl

/-- Everything a step that answers a next state can have done. -/
theorem step_cases {s t : State} (h : step s = .next t) : s.Live ∧
    ((s.haltsHere = true ∧ t = s.initialized.shutDown) ∨
     (s.haltsHere = false ∧
       ((∃ e, s.fetch = .error e ∧ t = s.initialized.raise e none) ∨
        (∃ w, s.fetch = .ok w ∧ decodeWord w = .error (.illegal w) ∧
          t = s.initialized.raise (.illegalInstruction w) (some w)) ∨
        (∃ w i u, s.fetch = .ok w ∧ decodeWord w = .ok i ∧ exec i s.initialized = .next u ∧ t = u.endOfStep)))) := by
  have hl : s.Live := by
    unfold step at h
    split at h
    · cases h
    · split at h
      · cases h
      · exact ⟨by assumption, by assumption⟩
  refine ⟨hl, ?_⟩
  rw [step_of_live hl] at h
  cases hh : s.haltsHere with
  | true =>
    unfold loopStep at h
    rw [initialized_haltsHere, hh, if_pos rfl] at h
    cases h
    exact .inl ⟨rfl, rfl⟩
  | false =>
    rw [loopStep_of_not_halts hh] at h
    refine .inr ⟨rfl, ?_⟩
    cases hf : s.fetch with
    | error e =>
      rw [scheduledStep_of_fetch_error ((initialized_fetch s).trans hf)] at h
      cases h
      exact .inl ⟨e, rfl, rfl⟩
    | ok w =>
      have hf' := (initialized_fetch s).trans hf
      cases hd : decodeWord w with
      | error d =>
        rw [scheduledStep_of_illegal hf' hd] at h
        cases h
        exact .inr (.inl ⟨w, rfl, hd.trans (congrArg _ (decodeWord_error hd)), rfl⟩)
      | ok i =>
        obtain ⟨u, hu⟩ := exec_next i s.initialized
        rw [scheduledStep_of_exec hf' hd hu] at h
        cases h
        exact .inr (.inr ⟨w, i, u, rfl, hd, hu, rfl⟩)

/-! ### Runs -/

/-- A run that starts with a step goes on from the state the step answers. -/
theorem core_run_of_next {k : Nat} {s t : State} (h : step s = .next t) :
    Sys2Proof.core.run (k + 1) s = Sys2Proof.core.run k t :=
  (Host.Core.run.eq_2 Sys2Proof.core s k).trans (by rw [show Sys2Proof.core.step s = .next t from h])

/-- A run of at least one step that answers a next state begins with a step that does. -/
theorem next_of_core_run {k : Nat} {s t : State} (h : Sys2Proof.core.run (k + 1) s = .next t) :
    ∃ u, step s = .next u ∧ Sys2Proof.core.run k u = .next t := by
  cases hs : step s with
  | next u => exact ⟨u, rfl, (core_run_of_next hs).symm.trans h⟩
  | fault r =>
    have h' := (Host.Core.run.eq_2 Sys2Proof.core s k).symm.trans h
    rw [show Sys2Proof.core.step s = .fault r from hs] at h'
    cases h'
  | refused r =>
    have h' := (Host.Core.run.eq_2 Sys2Proof.core s k).symm.trans h
    rw [show Sys2Proof.core.step s = .refused r from hs] at h'
    cases h'

/-- And it ends with one. -/
theorem core_run_last : ∀ {k : Nat} {s t : State}, Sys2Proof.core.run (k + 1) s = .next t →
    ∃ u : State, Sys2Proof.core.run k s = .next u ∧ step u = .next t
  | 0, s, t, h => by
    obtain ⟨u, hu, h⟩ := next_of_core_run h
    cases h
    exact ⟨s, rfl, hu⟩
  | k + 1, s, t, h => by
    obtain ⟨v, hv, h⟩ := next_of_core_run h
    obtain ⟨u, hu, h⟩ := core_run_last h
    exact ⟨u, (core_run_of_next hv).trans hu, h⟩

end Sys2Proof.Machine
end

