-- ==== Sys2Proof/Tests/Slice0.lean ====
section
/-! SUPPORT. The model's own tests: the well-formedness check, a written-out word for every constructor, small steps with the
results of the spec's vectors (95_test_vectors.md, whose sections the comments name), and for every obligation with
hypotheses a named witness that meets them. -/

namespace Sys2Proof.Tests

open Sys2Proof Sys2Proof.Machine

/-! ### Well-formedness and decoding -/

theorem test_illformed_drw_refused : Instr.wellFormed (.drw 0 0 16) = false := by decide

theorem test_config_wellFormed : Config.wellFormed = true ∧ Config.stepsPerFrame = 10 := by decide

/-- Formats F0 and FA: the words of rule R96's patterns, bit by bit. -/
theorem test_decode_F0_FA :
    decodeWord 0b0000000011100000#16 = .ok .cls ∧ decodeWord 0b0000000011101110#16 = .ok .ret ∧
    decodeWord 0b0001001000110100#16 = .ok (.jp 0x234) ∧ decodeWord 0b0010001100000000#16 = .ok (.call 0x300) ∧
    decodeWord 0b1010001011110000#16 = .ok (.ldI 0x2F0) ∧ decodeWord 0b1011001011111110#16 = .ok (.jpV0 0x2FE) := by
  decide

/-- Format FXK. -/
theorem test_decode_FXK :
    decodeWord 0b0011101000101011#16 = .ok (.seImm 0xA 0x2B) ∧ decodeWord 0b0100101000101011#16 = .ok (.sneImm 0xA 0x2B) ∧
    decodeWord 0b0110101000101011#16 = .ok (.ldImm 0xA 0x2B) ∧ decodeWord 0b0111001100000101#16 = .ok (.addImm 0x3 0x05) ∧
    decodeWord 0b1100000100001111#16 = .ok (.rnd 0x1 0x0F) := by
  decide

/-- Formats FXY and FXYN. -/
theorem test_decode_FXY :
    decodeWord 0b0101000100100000#16 = .ok (.seReg 1 2) ∧ decodeWord 0b1001000100100000#16 = .ok (.sneReg 1 2) ∧
    decodeWord 0b1000000100100000#16 = .ok (.ldReg 1 2) ∧ decodeWord 0b1000000100100001#16 = .ok (.orReg 1 2) ∧
    decodeWord 0b1000000100100010#16 = .ok (.andReg 1 2) ∧ decodeWord 0b1000000100100011#16 = .ok (.xorReg 1 2) ∧
    decodeWord 0b1000000100100100#16 = .ok (.addReg 1 2) ∧ decodeWord 0b1000000100100101#16 = .ok (.subReg 1 2) ∧
    decodeWord 0b1000000100100110#16 = .ok (.shr 1 2) ∧ decodeWord 0b1000000100100111#16 = .ok (.subnReg 1 2) ∧
    decodeWord 0b1000000100101110#16 = .ok (.shl 1 2) ∧ decodeWord 0b1101000100100101#16 = .ok (.drw 1 2 5) := by
  decide

/-- Format FX. -/
theorem test_decode_FX :
    decodeWord 0b1110001010011110#16 = .ok (.skp 2) ∧ decodeWord 0b1110001010100001#16 = .ok (.sknp 2) ∧
    decodeWord 0b1111010100000111#16 = .ok (.ldVxDT 5) ∧ decodeWord 0b1111001100001010#16 = .ok (.ldVxK 3) ∧
    decodeWord 0b1111010100010101#16 = .ok (.ldDTVx 5) ∧ decodeWord 0b1111010100011000#16 = .ok (.ldSTVx 5) ∧
    decodeWord 0b1111001100011110#16 = .ok (.addI 3) ∧ decodeWord 0b1111000000101001#16 = .ok (.ldF 0) ∧
    decodeWord 0b1111010000110011#16 = .ok (.ldB 4) ∧ decodeWord 0b1111001001010101#16 = .ok (.storeRegs 2) ∧
    decodeWord 0b1111001001100101#16 = .ok (.loadRegs 2) := by
  decide

/-- The illegal words of section 2.1. -/
theorem test_decode_illegal :
    [0x0000, 0x0123, 0x00E1, 0x5001, 0x9001, 0x8128, 0x812D, 0x812F, 0xE29F, 0xF000, 0xF075].all
      (fun n => decodeTableWord 16 n = none) = true := by
  decide

theorem test_decode_bytes :
    decode [0x6A, 0x2B, 0x12] = .ok (.ldImm 0xA 0x2B, [0x12]) ∧ decode [0x6A] = .error .truncated ∧
    decodeTableWord 16 0xD125 = some (.drw 1 2 5) := by
  decide

/-! ### A small machine -/

/-- The reset state with the display prepared, and `V[1]`, `V[2]`, `VF` as given. -/
def regs (v1 v2 vf : Byte) : State :=
  { State.reset with
    V := ((State.reset.V.set 1 v1).set 2 v2).set 15 vf
    display := { State.reset.display with surface := .ready } }

/-- One step of the machine with the word at `pc`, observed. -/
def run1 {α : Type} (s : State) (w : Nat) (f : State → α) : Option α :=
  match step (s.withFetchWord 16 w) with
  | .next t => some (f t)
  | _ => none

/-- The registers the ALU vectors of section 2.5 list. -/
def alu (t : State) : List Nat := [(t.reg 1).toNat, (t.reg 2).toNat, (t.reg 15).toNat, t.pc.toNat]

/-! ### Steps: control transfer (section 2.2) -/

/-- `stack[0] = 0x204`, `stack[1] = 0x31A`, `sp = 2`. -/
def twoCalls : State := { regs 0 0 0 with stack := (State.reset.stack.set 0 0x204).set 1 0x31A, sp := 2 }

theorem test_ret : run1 twoCalls 0x00EE (fun t => (t.sp.val, t.pc.toNat)) = some (1, 0x31C) := by decide

theorem test_ret_underflow : run1 (regs 0 0 0) 0x00EE (fun t => (t.fault, t.pc.toNat)) =
    some (some ⟨.stackUnderflow, 0x200, some 0x00EE⟩, 0x200) := by decide

theorem test_jp_odd : run1 (regs 0 0 0) 0x1235 (fun t => t.pc.toNat) = some 0x235 := by decide

/-- The 16th nested call succeeds. -/
theorem test_call_last_slot : run1 { regs 0 0 0 with sp := 15 } 0x2300
    (fun t => (t.sp.val, t.pc.toNat, (t.stack[15]).toNat)) = some (16, 0x300, 0x200) := by decide

theorem test_call_overflow : run1 { regs 0 0 0 with sp := 16 } 0x2300 (fun t => (t.fault, t.sp.val, t.pc.toNat)) =
    some (some ⟨.stackOverflow, 0x200, some 0x2300⟩, 16, 0x200) := by decide

/-- `B2FE` with `V0 = 2`, `V2 = 0x80`: the offset is `V0`. -/
theorem test_jpV0 : run1 ((regs 0 0x80 0).setReg 0 2) 0xB2FE (fun t => t.pc.toNat) = some 0x300 := by decide

theorem test_jpV0_no_cut : run1 ((regs 0 0 0).setReg 0 0xFF) 0xBFFF (fun t => (t.pc.toNat, t.fault)) =
    some (0x10FE, none) := by decide

/-! ### Steps: skips and immediates (sections 2.3, 2.4) -/

theorem test_seImm : run1 ((regs 0 0 0).setReg 10 0x2B) 0x3A2B (fun t => t.pc.toNat) = some 0x204 ∧
    run1 ((regs 0 0 0).setReg 10 0x2C) 0x3A2B (fun t => t.pc.toNat) = some 0x202 := by decide

theorem test_sneImm : run1 ((regs 0 0 0).setReg 10 0x2B) 0x4A2B (fun t => t.pc.toNat) = some 0x202 ∧
    run1 ((regs 0 0 0).setReg 10 0x2C) 0x4A2B (fun t => t.pc.toNat) = some 0x204 := by decide

theorem test_seReg : run1 (regs 7 7 0) 0x5120 (fun t => t.pc.toNat) = some 0x204 ∧
    run1 (regs 7 8 0) 0x5120 (fun t => t.pc.toNat) = some 0x202 := by decide

theorem test_sneReg : run1 (regs 7 7 0) 0x9120 (fun t => t.pc.toNat) = some 0x202 ∧
    run1 (regs 7 8 0) 0x9120 (fun t => t.pc.toNat) = some 0x204 := by decide

theorem test_ldImm : run1 (regs 0 0 0) 0x6FFF alu = some [0, 0, 0xFF, 0x202] := by decide

theorem test_addImm_wraps : run1 (regs 0xFE 0 0x55) 0x7105 alu = some [0x03, 0, 0x55, 0x202] := by decide

theorem test_addImm_VF : run1 (regs 0 0 0xFF) 0x7F01 alu = some [0, 0, 0x00, 0x202] := by decide

/-! ### Steps: the ALU family (section 2.5) -/

theorem test_ldReg : run1 (regs 0x01 0x7C 0x01) 0x8120 alu = some [0x7C, 0x7C, 0x01, 0x202] := by decide

theorem test_orReg : run1 (regs 0x0F 0xF0 0x01) 0x8121 alu = some [0xFF, 0xF0, 0x00, 0x202] ∧
    run1 (regs 0x42 0 0x01) 0x8F11 alu = some [0x42, 0, 0x00, 0x202] := by decide

theorem test_andReg : run1 (regs 0x3C 0x0F 0x01) 0x8122 alu = some [0x0C, 0x0F, 0x00, 0x202] := by decide

theorem test_xorReg : run1 (regs 0xFF 0x0F 0x01) 0x8123 alu = some [0xF0, 0x0F, 0x00, 0x202] := by decide

theorem test_addReg : run1 (regs 0xFF 0x01 0x77) 0x8124 alu = some [0x00, 0x01, 0x01, 0x202] ∧
    run1 (regs 0x80 0x7F 0x77) 0x8124 alu = some [0xFF, 0x7F, 0x00, 0x202] := by decide

theorem test_addReg_VF : run1 (regs 0x10 0 0x20) 0x8F14 alu = some [0x10, 0, 0x00, 0x202] ∧
    run1 (regs 0xFF 0 0x01) 0x81F4 alu = some [0x00, 0, 0x01, 0x202] := by decide

theorem test_subReg : run1 (regs 0x10 0x20 0x77) 0x8125 alu = some [0xF0, 0x20, 0x00, 0x202] ∧
    run1 (regs 0x05 0x05 0x77) 0x8125 alu = some [0x00, 0x05, 0x01, 0x202] := by decide

theorem test_subnReg : run1 (regs 0x10 0x20 0x77) 0x8127 alu = some [0x10, 0x20, 0x01, 0x202] ∧
    run1 (regs 0x20 0x10 0x77) 0x8127 alu = some [0xF0, 0x10, 0x00, 0x202] := by decide

/-- `8126` on 05, 08: 04 with 0 under VY, 02 with 1 under VX; `812E` on 81, 40: 80 with 0 under VY, 02 with 1 under VX. -/
theorem test_shift_operand :
    (shiftOperand .vy 0x05 0x08 >>> 1, evictedLsb (shiftOperand .vy 0x05 0x08)) = (0x04#8, 0#8) ∧
    (shiftOperand .vx 0x05 0x08 >>> 1, evictedLsb (shiftOperand .vx 0x05 0x08)) = (0x02#8, 1#8) ∧
    (shiftOperand .vy 0x81 0x40 <<< 1, evictedMsb (shiftOperand .vy 0x81 0x40)) = (0x80#8, 0#8) ∧
    (shiftOperand .vx 0x81 0x40 <<< 1, evictedMsb (shiftOperand .vx 0x81 0x40)) = (0x02#8, 1#8) := by decide

/-- With `x = y` the two settings of SHIFT_SOURCE agree. -/
theorem shifted_self (s : State) (x : Reg) : s.shifted x x = s.reg x := by
  unfold State.shifted
  cases Config.shiftSource <;> rfl

theorem test_shr_same : exec (.shr 1 1) (regs 0x05 0 0) = .next ((regs 0x05 0 0).setResultFlag 1 0x02 0x01) := by
  show Host.Outcome.next ((regs 0x05 0 0).setResultFlag 1 ((regs 0x05 0 0).shifted 1 1 >>> 1)
    (evictedLsb ((regs 0x05 0 0).shifted 1 1))) = _
  rw [shifted_self]
  rfl

theorem test_shl_same : exec (.shl 1 1) (regs 0x81 0 0) = .next ((regs 0x81 0 0).setResultFlag 1 0x02 0x01) := by
  show Host.Outcome.next ((regs 0x81 0 0).setResultFlag 1 ((regs 0x81 0 0).shifted 1 1 <<< 1)
    (evictedMsb ((regs 0x81 0 0).shifted 1 1))) = _
  rw [shifted_self]
  rfl

/-! ### Steps: address register and memory (section 2.6) -/

theorem test_ldI : run1 { regs 0 0 0 with I := 0xFFFF } 0xA2F0 (fun t => t.I.toNat) = some 0x2F0 := by decide

theorem test_addI : run1 { regs 1 2 7 with I := 0x0FFF } 0xF11E (fun t => (t.I.toNat, (t.reg 15).toNat)) = some (0x1000, 7) ∧
    run1 { regs 1 2 7 with I := 0xFFFF } 0xF21E (fun t => (t.I.toNat, (t.reg 15).toNat)) = some (0x0001, 7) := by decide

theorem test_ldF : run1 (regs 0x0F 0x1A 0) 0xF129 (fun t => t.I.toNat) = some 0x9B ∧
    run1 (regs 0x0F 0x1A 0) 0xF229 (fun t => t.I.toNat) = some 0x82 := by decide

/-- Bytes of memory as numbers. -/
def bytes (t : State) (as : List Nat) : List Nat := as.map fun a => (t.memory.read a).toNat

theorem test_bcd : run1 { regs 0x9D 0 0 with I := 0x300 } 0xF133
    (fun t => (bytes t [0x300, 0x301, 0x302], t.I.toNat, t.pc.toNat)) = some ([1, 5, 7], 0x300, 0x202) := by decide

/-- `I = 0xFFE`: two bytes are stored, then the fault reports 0x1000. -/
theorem test_bcd_fault : run1 { regs 0x7B 0 0 with I := 0xFFE } 0xF133
    (fun t => (bytes t [0xFFE, 0xFFF], t.fault, t.pc.toNat)) =
    some ([1, 2], some ⟨.outOfBoundsMemoryAccess 0x1000, 0x200, some 0xF133⟩, 0x200) := by decide

theorem test_store : run1 { (regs 0x22 0x33 0).setReg 0 0x11 with I := 0x400 } 0xF255
    (fun t => (bytes t [0x400, 0x401, 0x402, 0x403], t.I.toNat)) = some ([0x11, 0x22, 0x33, 0], 0x403) := by decide

theorem test_store_fault : run1 { (regs 0x22 0x33 0).setReg 0 0x11 with I := 0xFFF } 0xF155
    (fun t => (bytes t [0xFFF], t.fault, t.I.toNat)) =
    some ([0x11], some ⟨.outOfBoundsMemoryAccess 0x1000, 0x200, some 0xF155⟩, 0xFFF) := by decide

/-- `F165` with `I = 0x200` loads its own bytes, the high byte from the lower address. -/
theorem test_load : run1 { regs 0 9 0 with I := 0x200 } 0xF165
    (fun t => ([t.reg 0, t.reg 1, t.reg 2].map BitVec.toNat, t.I.toNat)) = some ([0xF1, 0x65, 9], 0x202) := by decide

theorem test_load_fault : run1 { regs 9 9 0 with I := 0xFFE, memory := [(0xFFE, 0x11), (0xFFF, 0x22)] } 0xF265
    (fun t => ([t.reg 0, t.reg 1, t.reg 2].map BitVec.toNat, t.fault, t.I.toNat)) =
    some ([0x11, 0x22, 9], some ⟨.outOfBoundsMemoryAccess 0x1000, 0x200, some 0xF265⟩, 0xFFE) := by decide

/-! ### Steps: display (section 2.7) -/

/-- Which of the listed pixels (column, row) are on. -/
def lit (t : State) (ps : List (Fin 64 × Fin 32)) : List Bool := ps.map fun p => t.display.pixels.pixel p.1 p.2

/-- `D121` at (126, 63) with the row C3: the row wraps from column 63 to column 0. -/
theorem test_drw_wraps : run1 { regs 0x7E 0x3F 9 with I := 0x300, memory := [(0x300, 0xC3)] } 0xD121
    (fun t => (lit t [(62, 31), (63, 31), (0, 31), (4, 31), (5, 31), (6, 31)], (t.reg 15).toNat)) =
    some ([true, true, false, true, true, false], 0) := by decide

/-- `D012` with the second row outside memory: nothing is drawn and `VF` stays. -/
theorem test_drw_fault : run1 { regs 0 0 9 with I := 0xFFF, memory := [(0xFFF, 0xFF)] } 0xD012
    (fun t => (lit t [(0, 0)], (t.reg 15).toNat, t.fault)) =
    some ([false], 9, some ⟨.outOfBoundsMemoryAccess 0x1000, 0x200, some 0xD012⟩) := by decide

/-- Band0's own example: the same sprite twice answers false, then true, and leaves the grid as it was. -/
theorem test_draw_twice :
    let d := (regs 0 0 0).display
    (d.drawSprite 0 0 [0xFF]).2 = false ∧ ((d.drawSprite 0 0 [0xFF]).1.drawSprite 0 0 [0xFF]).2 = true ∧
    ((d.drawSprite 0 0 [0xFF]).1.drawSprite 0 0 [0xFF]).1.pixels.pixel 7 0 = false := by decide

theorem test_cls : run1 { regs 0 0 7 with display := ⟨blankGrid.toggle 3 4, blankGrid, .ready⟩ } 0x00E0
    (fun t => (lit t [(3, 4)], (t.reg 15).toNat, t.pc.toNat)) = some ([false], 7, 0x202) := by decide

/-! ### Steps: keys, timers, random (section 2.8) -/

theorem test_skp_no_such_key : run1 (regs 0 0x15 0) 0xE29E (fun t => (t.pc.toNat, t.inputs)) = some (0x202, 0) := by decide

theorem test_skp_down (h : Config.keyDown 0 5 = true) :
    run1 (regs 0 5 0) 0xE29E (fun t => (t.pc, t.inputs)) = some (0x204, 1) := by
  show some (((if Config.keyDown 0 5 then (0x200 + 4 : Word16) else 0x200 + 2), 1)) = _
  rw [h]
  rfl

theorem test_sknp_no_such_key : run1 (regs 0 0x15 0) 0xE2A1 (fun t => (t.pc.toNat, t.inputs)) = some (0x204, 0) := by decide

theorem test_ldVxDT : run1 { regs 0 0 0 with DT := 0x3C } 0xF207 alu = some [0, 0x3C, 0, 0x202] := by decide

theorem test_ldDTVx : run1 (regs 0x3C 0 0) 0xF115 (fun t => (t.DT.toNat, t.ST.toNat)) = some (0x3C, 0) := by decide

theorem test_ldSTVx : run1 (regs 2 0 0) 0xF118 (fun t => (t.DT.toNat, t.ST.toNat)) = some (0, 2) := by decide

theorem test_keyWait_released (h : Config.keyDown 0 7 = false) :
    exec (.ldVxK 3) { regs 0 0 0 with latch := .awaitingRelease 7 } =
      .next { regs 0 0 0 with pc := 0x202, inputs := 1 } := by
  show Host.Outcome.next ((if Config.keyDown 0 7 then _ else _ : State).answered) = _
  rw [h]
  rfl

theorem test_rnd_mask_zero : exec (.rnd 1 0) (regs 9 0 0) = .next { regs 0 0 0 with pc := 0x202, inputs := 1 } := by
  show Host.Outcome.next (((regs 9 0 0).answered.setReg 1 (Config.randomByte 0 &&& 0#8)).next) = _
  rw [BitVec.and_zero]
  rfl

/-! ### Fetch, scheduler and reset (sections 2.1, 2.9) -/

/-- An odd `pc` executes the word formed by the bytes at `pc` and `pc + 1`. -/
theorem test_odd_pc :
    (match step { regs 0 0 0 with pc := 0x201, memory := [(0x200, 0x60), (0x201, 0x12), (0x202, 0x34), (0x203, 0x56)] } with
      | .next t => some t.pc.toNat
      | _ => none) = some 0x234 := by decide

theorem test_fetch_straddles_end :
    (match step { regs 0 0 0 with pc := 0xFFF } with
      | .next t => t.fault
      | _ => none) = some ⟨.outOfBoundsMemoryAccess 0x1000, 0xFFF, none⟩ := by decide

/-- The tenth step of a frame: both timers count down, to a floor of 0. -/
theorem test_tick : run1 { regs 0 0 0 with frameStep := 9, DT := 0xFF } 0x1200
    (fun t => (t.frameStep, t.DT.toNat, t.ST.toNat)) = some (0, 0xFE, 0) := by decide

/-- A fault at step 7 of a frame: no tick, and `frame_step` keeps its value. -/
theorem test_fault_abandons_frame : run1 { regs 0 0 0 with frameStep := 6, DT := 5 } 0x0000
    (fun t => (t.frameStep, t.DT.toNat, t.fault)) =
    some (6, 5, some ⟨.illegalInstruction 0, 0x200, some 0⟩) := by decide

/-- The image of program P1 as reset leaves it, and the font byte of glyph A's second row. -/
theorem test_resetWith : ((State.resetWith [0x60, 0x0A]).map fun s => bytes s [0x200, 0x201, 0x202, 0x83]) =
    some [0x60, 0x0A, 0, 0x90] := by decide

/-- The first step after reset prepares the display and runs the instruction. -/
theorem test_first_step_runs : run1 State.reset 0x6A2B
    (fun t => ((t.reg 10).toNat, t.pc.toNat, t.frameStep, t.display.surface)) = some (0x2B, 0x202, 1, .ready) := by decide

/-! ### Witnesses: for every obligation with hypotheses, a concrete input that meets them -/

/-- A machine about to execute a word at 0x200. -/
def at200 (w : Nat) : State := (regs 1 2 3).withFetchWord 16 w

theorem live_at200 (w : Nat) : (at200 w).Live := ⟨rfl, fun h => nomatch h⟩

theorem witness_DecodeOfEncodeIsTheInstruction : Instr.wellFormed (.drw 15 15 15) = true := by decide

theorem witness_EncodeOfDecodeIsTheWord : decodeWord 0xDFFF = .ok (.drw 15 15 15) := by decide

theorem witness_LegalWordsAreThoseOfTheOpcodeTable :
    (∃ p ∈ opcodeRows, p.selects 0xF165 = true) ∧ (∀ p ∈ opcodeRows, p.selects 0x0000 = false) ∧
    (∀ p ∈ opcodeRows, p.selects 0x800F = false) := by decide

theorem witness_StepRunsTheDecodedInstruction :
    (at200 0x6A2B).Live ∧ (at200 0x6A2B).haltsHere = false ∧ (at200 0x6A2B).fetch = .ok 0x6A2B ∧
    decodeWord 0x6A2B = .ok (.ldImm 0xA 0x2B) :=
  ⟨live_at200 _, by decide, by decide, by decide⟩

theorem witness_StoredWordIsFetched :
    ({ regs 0 0 0 with pc := 0xFFE } : State).memory.wf = true ∧
    ({ regs 0 0 0 with pc := 0xFFE } : State).pc.toNat + 1 < 4096 ∧ 0xFFFF < 65536 := by decide

/-- One machine for each clause: the last address with two bytes, the last with one, the first with none. -/
theorem witness_FetchReadsTwoBytesOrIsFatal :
    ∀ a ∈ [(0xFFE : Word16), 0xFFF, 0x1000], ({ regs 0 0 0 with pc := a } : State).Live ∧
      ({ regs 0 0 0 with pc := a } : State).haltsHere = false :=
  fun _ _ => ⟨⟨rfl, fun h => nomatch h⟩, rfl⟩

theorem witness_IllegalWordIsFatal :
    (at200 0x5001).Live ∧ (at200 0x5001).haltsHere = false ∧ (at200 0x5001).fetch = .ok 0x5001 ∧
    ∀ p ∈ opcodeRows, p.selects 0x5001 = false :=
  ⟨live_at200 _, by decide, by decide, by decide⟩

/-- The record of a `00EE` with an empty stack. -/
def underflow : FaultRecord := ⟨.stackUnderflow, 0x200, some 0x00EE⟩

theorem witness_FaultedAndEndedMachinesTakeNoStep :
    ({ regs 0 0 0 with fault := some underflow } : State).fault = some underflow ∧
    (regs 0 0 0).shutDown.fault = none ∧ (regs 0 0 0).shutDown.display.surface = .restored := by decide

/-- A fault with a word and a fault without one. -/
theorem witness_FatalErrorLeavesTheMachineAtItsInstruction :
    (∃ t, step (at200 0x00EE) = .next t ∧ t.fault = some underflow) ∧
    (∃ t, step { regs 0 0 0 with pc := 0x1000 } = .next t ∧
      t.fault = some ⟨.outOfBoundsMemoryAccess 0x1000, 0x1000, none⟩) :=
  ⟨⟨_, rfl, by decide⟩, ⟨_, rfl, by decide⟩⟩

theorem witness_WhichInstructionRaisesWhat : (regs 0 0 0).fault = none := rfl

theorem witness_RegisterFileReadsWhatWasSet : 15 ≤ 15 ∧ 15 < 16 := by decide

theorem witness_MemoryControllerReadsWhatWasWritten :
    Memory.wf [(0, 1), (4095, 0xFF)] = true ∧ 4095 < 4096 ∧ 4096 ≤ 4096 := by decide

theorem witness_MemoriesThatReadAlikeAreEqual :
    Memory.wf ((Memory.write [] 0x300 7).write 0x300 0) = true ∧ Memory.wf [] = true ∧
    ∀ a < 4096, Memory.read ((Memory.write [] 0x300 7).write 0x300 0) a = Memory.read [] a :=
  ⟨by decide, by decide, fun _ _ => rfl⟩

theorem witness_ResetCopiesTheImageVerbatim :
    ([] : List Byte).length ≤ 3584 ∧ (List.replicate 3584 (0xFF : Byte)).length ≤ 3584 :=
  ⟨Nat.zero_le _, Nat.le_of_eq List.length_replicate⟩

theorem witness_ResetLeavesTheRestAtItsResetValue :
    3584 < (List.replicate 3585 (0xFF : Byte)).length ∧ ∃ s, State.resetWith [0x00, 0xE0] = some s :=
  ⟨Nat.le_of_eq List.length_replicate.symm, _, rfl⟩

theorem witness_InvariantHoldsAtReset : ∃ s, State.resetWith [] = some s := ⟨_, rfl⟩

/-- A live machine inside a frame, in a subroutine, that takes a step which is no fault. -/
theorem witness_StepKeepsTheInvariant :
    ({ at200 0x00EE with sp := 1, frameStep := 9 } : State).Inv ∧
    ∃ t, step { at200 0x00EE with sp := 1, frameStep := 9 } = .next t ∧ t.fault = none :=
  ⟨⟨by decide, by decide, by decide, by decide, fun k h => nomatch h⟩, _, rfl, by decide⟩

/-- Each element is changed by some instruction in some state, so each clause has an input of its own. -/
theorem witness_EachElementIsWrittenOnlyByItsInstructions :
    (∃ t, exec (.ldB 1) (regs 9 0 0) = .next t ∧ t.memory ≠ (regs 9 0 0).memory) ∧
    (∃ t, exec (.ldI 5) (regs 0 0 0) = .next t ∧ t.I ≠ (regs 0 0 0).I) ∧
    (∃ t, exec (.call 0x300) (regs 0 0 0) = .next t ∧ t.sp ≠ (regs 0 0 0).sp) ∧
    (∃ t, exec (.ldDTVx 1) (regs 9 0 0) = .next t ∧ t.DT ≠ (regs 9 0 0).DT) ∧
    (∃ t, exec (.ldSTVx 1) (regs 9 0 0) = .next t ∧ t.ST ≠ (regs 9 0 0).ST) ∧
    (∃ t, exec (.drw 0 0 1) { regs 0 0 0 with I := 0x50 } = .next t ∧ t.display.pixels.pixel 0 0 = true) ∧
    (∃ t, exec (.rnd 1 0) (regs 9 0 0) = .next t ∧ t.inputs ≠ (regs 9 0 0).inputs) ∧
    (∃ t, exec (.addReg 1 2) (regs 0xFF 1 0) = .next t ∧ t.reg 15 ≠ (regs 0xFF 1 0).reg 15) :=
  ⟨⟨_, rfl, by decide⟩, ⟨_, rfl, by decide⟩, ⟨_, rfl, by decide⟩, ⟨_, rfl, by decide⟩, ⟨_, rfl, by decide⟩,
    ⟨_, rfl, by decide⟩, ⟨_, rfl, by decide⟩, ⟨_, rfl, by decide⟩⟩

/-- The latch clause has an input whatever the keys do: an idle wait if key 7 is down, a held one if it is up. -/
theorem witness_EachElement_latch : ∃ s t, exec (.ldVxK 3) s = .next t ∧ t.latch ≠ s.latch := by
  cases h : Config.keyDown 0 7 with
  | false =>
    refine ⟨_, _, test_keyWait_released h, ?_⟩
    decide
  | true =>
    refine ⟨regs 0 0 0, _, rfl, ?_⟩
    cases hc : (regs 0 0 0).chosenKey with
    | none => exact absurd ((chosenKey_eq_none.mp hc 7).symm.trans h) (by decide)
    | some k =>
      show ((regs 0 0 0).awaitPress 3).answered.latch ≠ Latch.idle
      unfold State.awaitPress
      rw [hc]
      exact fun h => nomatch h

theorem witness_FreeStackSlotsAreNeverRead :
    ({ twoCalls with stack := twoCalls.stack.set 9 0x444 } : State) =
      { twoCalls with stack := ({ twoCalls with stack := twoCalls.stack.set 9 0x444 } : State).stack } ∧
    ∀ k (h : k < 16), k < twoCalls.sp.val → (twoCalls.stack.set 9 0x444)[k] = twoCalls.stack[k] :=
  ⟨rfl, by decide⟩

theorem witness_StopRequestEndsTheLoopAtAFrameBoundary :
    (regs 0 0 0).requestStop.Live ∧ (regs 0 0 0).requestStop.frameStep = 0 ∧ (regs 0 0 0).requestStop.running = false :=
  ⟨⟨rfl, fun h => nomatch h⟩, rfl, rfl⟩

theorem witness_StopRequestInsideAFrameWaits : ({ regs 0 0 0 with frameStep := 3 } : State).frameStep ≠ 0 := by decide

theorem witness_NoStepWritesRunning : ∃ t, step (at200 0x1200) = .next t := ⟨_, rfl⟩

/-- Both clauses: a step inside a frame and the last step of one. -/
theorem witness_FrameEndsWithOnePresentAndOneTick :
    ∀ j ∈ [8, 9], ({ at200 0x6A2B with frameStep := j } : State).Live ∧
      ({ at200 0x6A2B with frameStep := j } : State).haltsHere = false ∧
      ({ at200 0x6A2B with frameStep := j } : State).fetch = .ok 0x6A2B ∧
      decodeWord 0x6A2B = .ok (.ldImm 0xA 0x2B) ∧ j < 10 ∧
      ∃ t, exec (.ldImm 0xA 0x2B) ({ at200 0x6A2B with frameStep := j } : State).initialized = .next t ∧ t.fault = none := by
  intro j hj
  have hj : j = 8 ∨ j = 9 := by simpa using hj
  rcases hj with rfl | rfl <;>
    exact ⟨⟨rfl, fun h => nomatch h⟩, by decide, by decide, by decide, by decide, _, rfl, by decide⟩

/-- A jump to itself as the last step of a frame: one tick, and the run goes on. -/
theorem witness_RunCountsItsStepsModuloTheFrame :
    ∃ t : State, Sys2Proof.core.run 1 ({ at200 0x1200 with frameStep := 9, DT := 5 } : State) = .next t ∧
      t.fault = none ∧ t.display.surface ≠ .restored ∧ t.DT = 4 :=
  ⟨_, core_run_of_next rfl, by decide, by decide, by decide⟩

theorem witness_DelayTimerFallsByTheFramesPassed :
    (∀ j < 1, ∀ (u : State) w x,
      Sys2Proof.core.run j ({ at200 0x1200 with frameStep := 9, DT := 5 } : State) = .next u →
      u.fetch = .ok w → decodeWord w ≠ .ok (.ldDTVx x)) ∧
    ∃ t : State, Sys2Proof.core.run 1 ({ at200 0x1200 with frameStep := 9, DT := 5 } : State) = .next t ∧
      t.fault = none ∧ t.display.surface ≠ .restored := by
  refine ⟨?_, _, core_run_of_next rfl, by decide, by decide⟩
  intro j hj u w x hu hw
  obtain rfl : j = 0 := by omega
  cases hu
  have hw' : w = 0x1200 := by
    have : (at200 0x1200).fetch = .ok 0x1200 := by decide
    exact Except.ok.inj (hw.symm.trans this)
  rw [hw', show decodeWord 0x1200 = .ok (.jp 0x200) by decide]
  exact fun h => nomatch h

/-- A step inside a frame and the last step of one. -/
theorem witness_KeyWaitSuspendsOnlyTheProgramCounter :
    decodeWord 0xF30A = .ok (.ldVxK 3) ∧
    ∀ j ∈ [8, 9], ({ at200 0xF30A with frameStep := j } : State).Live ∧
      ({ at200 0xF30A with frameStep := j } : State).haltsHere = false ∧ j < 10 ∧
      ({ at200 0xF30A with frameStep := j } : State).fetch = .ok 0xF30A := by
  refine ⟨by decide, fun j hj => ?_⟩
  have hj : j = 8 ∨ j = 9 := by simpa using hj
  rcases hj with rfl | rfl <;> exact ⟨⟨rfl, fun h => nomatch h⟩, by decide, by decide, by decide⟩

theorem witness_RetResumesTwoPastTheSavedAddress :
    (({ regs 0 0 0 with sp := 1 } : State).sp.val ≠ 0 ∧ ({ regs 0 0 0 with sp := 16 } : State).sp.val ≠ 0) ∧
    (regs 0 0 0).sp.val = 0 := by decide

theorem witness_JpGoesToItsAddress : (0xFFF : BitVec 12).toNat = 0xFFF := by decide

theorem witness_CallSavesItsOwnAddress :
    ({ regs 0 0 0 with sp := 15 } : State).sp.val < 16 ∧ ({ regs 0 0 0 with sp := 16 } : State).sp.val = 16 := by decide

/-- A sum just past the last fetchable address, and the largest sum. -/
theorem witness_JpV0AddsRegisterZero :
    0xFFF ≤ (0xF00 : BitVec 12).toNat + (((regs 0 0 0).setReg 0 0xFF).reg 0).toNat ∧
    0xFFF ≤ (0xFFF : BitVec 12).toNat + (((regs 0 0 0).setReg 0 0xFF).reg 0).toNat := by decide

/-- A callee that has returned to depth, with every register changed. -/
theorem witness_RetAfterCallResumesAfterTheCall :
    ({ regs 0 0 0 with sp := 15 } : State).sp.val < 16 ∧ ∃ t, exec (.call 0x300) { regs 0 0 0 with sp := 15 } = .next t ∧
      ∃ u : State, u.stack = t.stack ∧ u.sp = t.sp ∧ u.pc ≠ t.pc ∧ u.V ≠ t.V :=
  ⟨by decide, _, rfl, { regs 9 9 9 with stack := _, sp := _ }, rfl, rfl, by decide, by decide⟩

theorem witness_RegisterSkipsAdvanceByFourOrTwo :
    (0x5001 : Word16).toNat = 0x5000 + 0x100 * (0 : Reg).val + 0x10 * (0 : Reg).val + 1 ∧
    (0x9FFF : Word16).toNat = 0x9000 + 0x100 * (15 : Reg).val + 0x10 * (15 : Reg).val + 15 := by decide

theorem witness_LogicOperationsResetTheFlag :
    ((Instr.orReg 15 15 = .orReg 15 15 ∧ or = or) ∨ (Instr.orReg 15 15 = .andReg 15 15 ∧ or = and) ∨
      (Instr.orReg 15 15 = .xorReg 15 15 ∧ or = xor)) ∧ (3 : Reg) ≠ 15 :=
  ⟨.inl ⟨rfl, rfl⟩, by decide⟩

/-- Equal operands and a borrow, for the two directions. -/
theorem witness_SubtractionsStoreDifferenceAndNotBorrow :
    (Instr.subReg 1 2 = .subReg 1 2 ∧ 5 = ((regs 5 5 0).reg 1).toNat ∧ 5 = ((regs 5 5 0).reg 2).toNat) ∧
    (Instr.subnReg 1 2 = .subnReg 1 2 ∧ 4 = ((regs 5 4 0).reg 2).toNat ∧ 5 = ((regs 5 4 0).reg 1).toNat) := by decide

/-- With `x = y` the value is the same for either SHIFT_SOURCE. -/
theorem witness_ShiftsEvictIntoTheFlag :
    0x81 = (if Config.shiftSource = .vx then ((regs 0x81 0 0).reg 1).toNat else ((regs 0x81 0 0).reg 1).toNat) := by
  rw [ite_self]
  decide

/-- The last base whose three bytes all exist, and the first whose do not. -/
theorem witness_BcdDigitsAreStoredFromI :
    (regs 1 2 3).memory.wf = true ∧ ({ regs 1 2 3 with I := 0xFFD } : State).address 2 < 4096 ∧
    4096 ≤ ({ regs 1 2 3 with I := 0xFFE } : State).address 2 := by decide

theorem witness_BulkStoreStoresUpToVx :
    (regs 1 2 3).memory.wf = true ∧ ({ regs 1 2 3 with I := 0xFF0 } : State).address 15 < 4096 ∧
    4096 ≤ ({ regs 1 2 3 with I := 0xFF1 } : State).address 15 := by decide

theorem witness_BulkLoadLoadsUpToVx :
    ({ regs 1 2 3 with I := 0xFFF } : State).address (0 : Reg).val < 4096 ∧
    4096 ≤ ({ regs 1 2 3 with I := 0xFFF } : State).address (1 : Reg).val := by decide

theorem witness_BulkStoreThenLoadRestoresRegisters :
    (regs 1 2 3).memory.wf = true ∧ ({ regs 1 2 3 with I := 0xFF0 } : State).address (15 : Reg).val < 4096 := by decide

theorem witness_ClsTurnsEveryPixelOffAndPresents : (List.replicate 15 (0xFF : Byte)).length ≤ 15 := by decide

/-- The surface before the loop and after it began, a step and the end of the loop. -/
theorem witness_InitializeBlanksTheDisplayOnce :
    State.reset.display.surface = .unprepared ∧ State.reset.Live ∧ (regs 0 0 0).display.surface ≠ .unprepared ∧
    (State.reset.haltsHere = false ∧ ∃ t, step State.reset = .next t) ∧
    (State.reset.requestStop.haltsHere = true ∧ ∃ t, step State.reset.requestStop = .next t) :=
  ⟨rfl, ⟨rfl, fun h => nomatch h⟩, (fun h => nomatch h), ⟨rfl, _, rfl⟩, rfl, _, rfl⟩

/-- The first step turns the old pixel off before its own sprite is drawn, which stays and meets no collision; the second finds
the surface ready. -/
theorem test_initialize :
    run1 { regs 0 0 9 with I := 0x50, display := ⟨blankGrid.toggle 0 0, blankGrid, .unprepared⟩ } 0xD121
      (fun t => (lit t [(0, 0)], t.reg 15, t.display.surface)) = some ([true], 0, .ready) ∧
    run1 { regs 0 0 9 with I := 0x50, display := ⟨blankGrid.toggle 0 0, blankGrid, .ready⟩ } 0xD121
      (fun t => (lit t [(0, 0)], t.reg 15, t.display.surface)) = some ([false], 1, .ready) := by decide

/-- A covered pixel past the right edge and an uncovered one. -/
theorem witness_DrawSpriteInvertsTheCoveredPixels :
    (List.replicate 15 (0x01 : Byte)).length ≤ 15 ∧ SpriteCovers 60 31 (List.replicate 15 0x01) 3 13 ∧
    ¬SpriteCovers 60 31 [0x01] 2 31 := by
  refine ⟨by decide, ⟨7, 14, by decide, by decide, by decide, by decide, by decide⟩, ?_⟩
  rintro ⟨b, k, hk, hb, hs, hc, -⟩
  have hk0 : k = 0 := by simp at hk; omega
  subst hk0
  have : b = 6 := by simp at hc; omega
  subst this
  simp at hs

theorem witness_SpriteDrawnTwiceErasesItself :
    ([0xFF] : List Byte).length ≤ 15 ∧ ∀ c r, (regs 0 0 0).display.pixels.pixel c r = false :=
  ⟨by decide, fun c r => blankGrid_pixel c r⟩

/-- No row, the last base whose 15 rows all exist, and the first whose do not. -/
theorem witness_DrwDrawsTheRowsAtI :
    ({ regs 0 0 0 with I := 0xFF1 } : State).address 15 ≤ 4096 ∧
    4096 < ({ regs 0 0 0 with I := 0xFF2 } : State).address 15 := by decide

theorem witness_KeySkipsQueryOneKeyOnce :
    ((regs 0 15 0).reg 2).toNat = (15 : Key).val ∧ 15 < ((regs 0 16 0).reg 2).toNat := by decide

theorem witness_KeyWaitTakesAPressAndThenItsRelease :
    (regs 0 0 0).latch = .idle ∧
    ({ regs 0 0 0 with latch := .awaitingRelease 15 } : State).latch = .awaitingRelease 15 := by decide

end Sys2Proof.Tests
end

/-! PROOF. The shifts `8xy6` and `8xyE` (rules R176, R178): the value they read and the bit they evict as numbers, what the
shared write of result and flag leaves, and from these the statement about both. -/

namespace Sys2Proof.Machine

/-! ### The value a shift reads and the bit it evicts -/

/-- Rule R5: the value shifted is that of the register SHIFT_SOURCE names, whichever it is. -/
theorem shifted_toNat (s : State) (x y : Reg) :
    (s.shifted x y).toNat = if Config.shiftSource = .vx then (s.reg x).toNat else (s.reg y).toNat := by
  unfold State.shifted
  cases Config.shiftSource <;> rfl

theorem flagByte_toNat (b : Bool) : (flagByte b).toNat = b.toNat := by
  cases b <;> rfl

/-- Rule R176: bit 0 is the remainder modulo 2. -/
theorem evictedLsb_toNat (v : Byte) : (evictedLsb v).toNat = v.toNat % 2 := by
  rw [evictedLsb, flagByte_toNat, BitVec.getLsbD, Nat.toNat_testBit, pow_zero, Nat.div_one]

/-- Rule R178: bit 7 of a byte is its quotient by 128, which is below 2. -/
theorem evictedMsb_toNat (v : Byte) : (evictedMsb v).toNat = v.toNat / 128 := by
  rw [evictedMsb, flagByte_toNat, BitVec.getLsbD, Nat.toNat_testBit]
  omega

/-! ### The shared write of result and flag -/

/-- Rule R180, decision D6: the flag register holds the flag, `V[x]` the result where it is another register, every other
register its old value; `pc` is the next instruction's, and nothing else changes. -/
theorem setResultFlag_effect (s : State) (x : Reg) (v f : Byte) :
    (s.setResultFlag x v f).reg 15 = f ∧ (x ≠ 15 → (s.setResultFlag x v f).reg x = v) ∧
    (∀ q, q ≠ x → q ≠ 15 → (s.setResultFlag x v f).reg q = s.reg q) ∧ (s.setResultFlag x v f).pc = s.pc + 2 ∧
    s.setResultFlag x v f = { s with V := (s.setResultFlag x v f).V, pc := (s.setResultFlag x v f).pc } := by
  refine ⟨?flag, fun hx => ?result, fun q hqx hq => ?other, rfl, rfl⟩
  case flag => rw [setResultFlag_reg, if_pos rfl]
  case result => rw [setResultFlag_reg, if_neg hx, if_pos rfl]
  case other => rw [setResultFlag_reg, if_neg hq, if_neg hqx]

/-! ### The two shifts -/

theorem exec_shr (x y : Reg) (s : State) :
    exec (.shr x y) s = .next (s.setResultFlag x (s.shifted x y >>> 1) (evictedLsb (s.shifted x y))) := rfl

theorem exec_shl (x y : Reg) (s : State) :
    exec (.shl x y) s = .next (s.setResultFlag x (s.shifted x y <<< 1) (evictedMsb (s.shifted x y))) := rfl

/-- Settles O42: both shifts are one write of result and flag, whose two bytes are those of the value SHIFT_SOURCE selects. -/
theorem shiftsEvictIntoTheFlag : Obligations.ShiftsEvictIntoTheFlag := by
  intro x y s v hv
  rw [← shifted_toNat] at hv
  subst hv
  constructor
  · obtain ⟨hflag, hresult, hframe⟩ :=
      setResultFlag_effect s x (s.shifted x y >>> 1) (evictedLsb (s.shifted x y))
    refine ⟨_, exec_shr x y s, ?_, fun hx => ?_, hframe⟩
    · rw [hflag, evictedLsb_toNat]
    · rw [hresult hx, BitVec.toNat_ushiftRight, Nat.shiftRight_one]
  · obtain ⟨hflag, hresult, hframe⟩ :=
      setResultFlag_effect s x (s.shifted x y <<< 1) (evictedMsb (s.shifted x y))
    refine ⟨_, exec_shl x y s, ?_, fun hx => ?_, hframe⟩
    · rw [hflag, evictedMsb_toNat]
    · rw [hresult hx, BitVec.toNat_shiftLeft, Nat.shiftLeft_eq, pow_one]

end Sys2Proof.Machine

/-! PROOF. The meanings that branch as one equation per branch, and what each instruction may write (the table of rule R38):
the layer the statements about the state (10_state.md) rest on. -/

namespace Sys2Proof.Machine

/-! ### The meanings that branch, one equation per branch -/

theorem exec_ret_of_empty {s : State} (h : s.sp.val = 0) :
    exec .ret s = .next (s.raise .stackUnderflow (some (encode .ret))) :=
  congrArg Host.Outcome.next (dif_pos h)

theorem exec_ret_of_held {s : State} (h : s.sp.val ≠ 0) : exec .ret s = .next (s.pop.setPc (s.top h + 2)) :=
  congrArg Host.Outcome.next (dif_neg h)

theorem exec_call_of_free (nnn : BitVec 12) {s : State} (h : s.sp.val < Config.stackDepth) :
    exec (.call nnn) s = .next ((s.push s.pc h).setPc (zext16 nnn)) :=
  congrArg Host.Outcome.next (dif_pos h)

theorem exec_call_of_full (nnn : BitVec 12) {s : State} (h : ¬s.sp.val < Config.stackDepth) :
    exec (.call nnn) s = .next (s.raise .stackOverflow (some (encode (.call nnn)))) :=
  congrArg Host.Outcome.next (dif_neg h)

theorem exec_drw_of_ok {s : State} {n : Nat} {rows : List Byte} (x y : Reg)
    (h : readBytes s.memory (s.address 0) n = .ok rows) : exec (.drw x y n) s = .next (s.drawRows x y rows) := by
  simp only [exec, execDrw, h]

theorem exec_drw_of_error {s : State} {n : Nat} {e : FatalError} (x y : Reg)
    (h : readBytes s.memory (s.address 0) n = .error e) :
    exec (.drw x y n) s = .next (s.raise e (some (encode (.drw x y n)))) := by
  simp only [exec, execDrw, h]

/-- An idle poll with no key down. -/
theorem exec_ldVxK_of_no_key (x : Reg) {s : State} (hl : s.latch = .idle) (hk : s.chosenKey = none) :
    exec (.ldVxK x) s = .next s.answered := by
  simp only [exec, execLdVxK, State.awaitPress, hl, hk]

/-- An idle poll that takes a key. -/
theorem exec_ldVxK_of_press (x : Reg) {s : State} {k : Key} (hl : s.latch = .idle) (hk : s.chosenKey = some k) :
    exec (.ldVxK x) s = .next ((s.setReg x (keyByte k)).setLatch (.awaitingRelease k)).answered := by
  simp only [exec, execLdVxK, State.awaitPress, hl, hk]

/-- A poll while the latched key is down. -/
theorem exec_ldVxK_of_down (x : Reg) {s : State} {k : Key} (hl : s.latch = .awaitingRelease k)
    (hk : s.keyPressed k = true) : exec (.ldVxK x) s = .next s.answered := by
  simp only [exec, execLdVxK, State.awaitRelease, hl, hk, if_true]

/-- The poll that finds the latched key up. -/
theorem exec_ldVxK_of_release (x : Reg) {s : State} {k : Key} (hl : s.latch = .awaitingRelease k)
    (hk : s.keyPressed k = false) : exec (.ldVxK x) s = .next (s.setLatch .idle).next.answered := by
  simp only [exec, execLdVxK, State.awaitRelease, hl, hk, Bool.false_eq_true, if_false]

/-- One poll does one of three things: it answers and no more, it takes a press, or it completes on the release. -/
theorem exec_ldVxK_cases {x : Reg} {s t : State} (h : exec (.ldVxK x) s = .next t) :
    t = s.answered ∨
    (∃ k, s.latch = .idle ∧ t = ((s.setReg x (keyByte k)).setLatch (.awaitingRelease k)).answered) ∨
    (∃ k, s.latch = .awaitingRelease k ∧ t = (s.setLatch .idle).next.answered) := by
  cases hl : s.latch with
  | idle =>
    cases hk : s.chosenKey with
    | none =>
      rw [exec_ldVxK_of_no_key x hl hk] at h
      cases h
      exact .inl rfl
    | some k =>
      rw [exec_ldVxK_of_press x hl hk] at h
      cases h
      exact .inr (.inl ⟨k, rfl, rfl⟩)
  | awaitingRelease k =>
    cases hk : s.keyPressed k with
    | true =>
      rw [exec_ldVxK_of_down x hl hk] at h
      cases h
      exact .inl rfl
    | false =>
      rw [exec_ldVxK_of_release x hl hk] at h
      cases h
      exact .inr (.inr ⟨k, rfl, rfl⟩)

/-- A key test answers at most one input and changes nothing else. -/
theorem keyQueried_eq (s : State) (v : Byte) :
    s.keyQueried v = { s with inputs := if (keyOf v).isSome then s.inputs + 1 else s.inputs } := by
  unfold State.keyQueried
  cases keyOf v <;> rfl

/-- An instruction whose accesses may fail ends in a fatal error or in the rest of its pseudocode. -/
theorem orRaise_cases (s : State) (i : Instr) (e : Option FatalError) (rest : State → State) :
    s.orRaise i e rest = rest s ∨ ∃ f, s.orRaise i e rest = s.raise f (some (encode i)) := by
  cases e with
  | none => exact .inl rfl
  | some f => exact .inr ⟨f, rfl⟩

/-! ### What each instruction may write (rule R38) -/

/-- `t` is `s` but for the elements the instruction names as written, `pc`, and for those that can raise the fault record. -/
def WritesOnly (i : Instr) (s t : State) : Prop :=
  match i with
  | .cls => t = { s with display := t.display, pc := t.pc }
  | .ret => t = { s with sp := t.sp, pc := t.pc, fault := t.fault }
  | .call _ => t = { s with stack := t.stack, sp := t.sp, pc := t.pc, fault := t.fault }
  | .jp _ | .jpV0 _ | .seImm _ _ | .sneImm _ _ | .seReg _ _ | .sneReg _ _ => t = { s with pc := t.pc }
  | .ldImm _ _ | .addImm _ _ | .ldReg _ _ | .orReg _ _ | .andReg _ _ | .xorReg _ _ | .addReg _ _ | .subReg _ _
  | .shr _ _ | .subnReg _ _ | .shl _ _ | .ldVxDT _ => t = { s with V := t.V, pc := t.pc }
  | .rnd _ _ => t = { s with V := t.V, inputs := t.inputs, pc := t.pc }
  | .drw _ _ _ => t = { s with V := t.V, display := t.display, pc := t.pc, fault := t.fault }
  | .skp _ | .sknp _ => t = { s with inputs := t.inputs, pc := t.pc }
  | .ldVxK _ => t = { s with V := t.V, latch := t.latch, inputs := t.inputs, pc := t.pc }
  | .ldDTVx _ => t = { s with DT := t.DT, pc := t.pc }
  | .ldSTVx _ => t = { s with ST := t.ST, pc := t.pc }
  | .ldI _ | .addI _ | .ldF _ => t = { s with I := t.I, pc := t.pc }
  | .ldB _ => t = { s with memory := t.memory, pc := t.pc, fault := t.fault }
  | .storeRegs _ => t = { s with memory := t.memory, I := t.I, pc := t.pc, fault := t.fault }
  | .loadRegs _ => t = { s with V := t.V, I := t.I, pc := t.pc, fault := t.fault }

/-- Rules R38, R125: every element an instruction does not write is unchanged. -/
theorem exec_writesOnly {i : Instr} {s t : State} (h : exec i s = .next t) : WritesOnly i s t := by
  cases i
  case ret =>
    by_cases hs : s.sp.val = 0
    · rw [exec_ret_of_empty hs] at h
      cases h
      rfl
    · rw [exec_ret_of_held hs] at h
      cases h
      rfl
  case call nnn =>
    by_cases hs : s.sp.val < Config.stackDepth
    · rw [exec_call_of_free nnn hs] at h
      cases h
      rfl
    · rw [exec_call_of_full nnn hs] at h
      cases h
      rfl
  case drw x y n =>
    cases hr : readBytes s.memory (s.address 0) n with
    | error e =>
      rw [exec_drw_of_error x y hr] at h
      cases h
      rfl
    | ok rows =>
      rw [exec_drw_of_ok x y hr] at h
      cases h
      rfl
  case ldVxK x =>
    obtain rfl | ⟨k, -, rfl⟩ | ⟨k, -, rfl⟩ := exec_ldVxK_cases h <;> rfl
  case skp x | sknp x =>
    cases h
    rw [keyQueried_eq]
    rfl
  case ldB | storeRegs | loadRegs =>
    cases h
    obtain he | ⟨f, he⟩ := orRaise_cases .. <;> rw [he] <;> rfl
  all_goals
    cases h
    rfl

end Sys2Proof.Machine

/-! PROOF. The invariant of reachable states (rule R37): each of its parts through one instruction, through the scheduler's
moves, and so through every step; it holds at reset. -/

namespace Sys2Proof.Machine

/-! ### One instruction -/

/-- Every step but that of `Fx33` and `Fx55` leaves memory alone, and their stores keep its form. -/
theorem exec_memory_wf {i : Instr} {s t : State} (hm : s.memory.wf = true) (h : exec i s = .next t) :
    t.memory.wf = true := by
  have hw := exec_writesOnly h
  cases i
  case ldB | storeRegs =>
    cases h
    obtain he | ⟨f, he⟩ := orRaise_cases .. <;> rw [he] <;> exact storeBytes_wf hm
  all_goals exact (congrArg State.memory hw).symm ▸ hm

/-- No instruction writes `frame_step`. -/
theorem exec_frameStep {i : Instr} {s t : State} (h : exec i s = .next t) : t.frameStep = s.frameStep := by
  have hw := exec_writesOnly h
  cases i <;> exact (congrArg State.frameStep hw :)

/-- No instruction writes `running`. -/
theorem exec_running {i : Instr} {s t : State} (h : exec i s = .next t) : t.running = s.running := by
  have hw := exec_writesOnly h
  cases i <;> exact (congrArg State.running hw :)

/-- Rule R124: where an instruction leaves `pc`: at itself (a fatal error or a key wait), two or four past itself, at a return
address plus 2, at an immediate, or at the target of `Bnnn`. -/
theorem exec_pc_cases {i : Instr} {s t : State} (h : exec i s = .next t) :
    t.pc = s.pc ∨ t.pc = s.pc + 2 ∨ t.pc = s.pc + 4 ∨ (∃ hs : s.sp.val ≠ 0, t.pc = s.top hs + 2) ∨
    ∃ nnn, t.pc = zext16 nnn ∨ t.pc = s.offsetTarget nnn := by
  cases i
  case ret =>
    by_cases hs : s.sp.val = 0
    · rw [exec_ret_of_empty hs] at h
      cases h
      exact .inl rfl
    · rw [exec_ret_of_held hs] at h
      cases h
      exact .inr (.inr (.inr (.inl ⟨hs, rfl⟩)))
  case call nnn =>
    by_cases hs : s.sp.val < Config.stackDepth
    · rw [exec_call_of_free nnn hs] at h
      cases h
      exact .inr (.inr (.inr (.inr ⟨nnn, .inl rfl⟩)))
    · rw [exec_call_of_full nnn hs] at h
      cases h
      exact .inl rfl
  case drw x y n =>
    cases hr : readBytes s.memory (s.address 0) n with
    | error e =>
      rw [exec_drw_of_error x y hr] at h
      cases h
      exact .inl rfl
    | ok rows =>
      rw [exec_drw_of_ok x y hr] at h
      cases h
      exact .inr (.inl rfl)
  case ldVxK x =>
    obtain rfl | ⟨k, -, rfl⟩ | ⟨k, -, rfl⟩ := exec_ldVxK_cases h
    · exact .inl rfl
    · exact .inl rfl
    · exact .inr (.inl rfl)
  case ldB | storeRegs | loadRegs =>
    cases h
    obtain he | ⟨f, he⟩ := orRaise_cases .. <;> rw [he]
    · exact .inr (.inl rfl)
    · exact .inl rfl
  case skp x | sknp x =>
    cases h
    rw [keyQueried_eq, skipIf_pc]
    split
    · exact .inr (.inr (.inl rfl))
    · exact .inr (.inl rfl)
  case seImm | sneImm | seReg | sneReg =>
    cases h
    rw [skipIf_pc]
    split
    · exact .inr (.inr (.inl rfl))
    · exact .inr (.inl rfl)
  case jp nnn =>
    cases h
    exact .inr (.inr (.inr (.inr ⟨nnn, .inl rfl⟩)))
  case jpV0 nnn =>
    cases h
    exact .inr (.inr (.inr (.inr ⟨nnn, .inr rfl⟩)))
  all_goals
    cases h
    exact .inr (.inl rfl)

/-- Rule R25: from a fetched instruction, with return addresses below 0xFFF, `pc` goes to at most 0x10FE. -/
theorem exec_pc_le {i : Instr} {s t : State} (hpc : s.pc.toNat + 1 < Config.memSize)
    (hst : ∀ k (h : k < Config.stackDepth), s.stack[k].toNat ≤ 0xFFE) (h : exec i s = .next t) :
    t.pc.toNat ≤ 0x10FE := by
  have hpc' : s.pc.toNat + 1 < 4096 := hpc
  obtain e | e | e | ⟨hs, e⟩ | ⟨nnn, e | e⟩ := exec_pc_cases h <;> rw [e]
  · omega
  · bv_omega
  · bv_omega
  · have htop : (s.top hs).toNat ≤ 0xFFE := hst _ _
    bv_omega
  · have hn := nnn.isLt
    rw [zext16_toNat]
    omega
  · have hn := nnn.isLt
    have hv := (s.reg 0).isLt
    rw [offsetTarget_toNat]
    omega

/-- Rule R25: a call saves the address of a fetched instruction, and no other instruction writes the stack. -/
theorem exec_stack_le {i : Instr} {s t : State} (hpc : s.pc.toNat + 1 < Config.memSize)
    (hst : ∀ k (h : k < Config.stackDepth), s.stack[k].toNat ≤ 0xFFE) (h : exec i s = .next t) :
    ∀ k (h : k < Config.stackDepth), t.stack[k].toNat ≤ 0xFFE := by
  have hw := exec_writesOnly h
  cases i
  case call nnn =>
    by_cases hs : s.sp.val < Config.stackDepth
    · rw [exec_call_of_free nnn hs] at h
      cases h
      intro k hk
      have hpc' : s.pc.toNat + 1 < 4096 := hpc
      rw [setPc_stack, push_stack, Vector.getElem_set]
      split
      · omega
      · exact hst k hk
    · rw [exec_call_of_full nnn hs] at h
      cases h
      exact hst
  all_goals exact (congrArg State.stack hw).symm ▸ hst

/-- Rule R37: only `Fx0A` writes the latch. -/
theorem exec_latch {i : Instr} {s t : State} (hi : ∀ x, i ≠ .ldVxK x) (h : exec i s = .next t) :
    t.latch = s.latch := by
  have hw := exec_writesOnly h
  cases i
  case ldVxK x => exact absurd rfl (hi x)
  all_goals exact (congrArg State.latch hw :)

/-! ### The held latch -/

/-- With an idle latch there is nothing to hold. -/
theorem latchHeld_of_idle {s : State} (h : s.latch = .idle) : s.LatchHeld :=
  fun _ hk => nomatch h.symm.trans hk

/-- The latch stays held where memory, `pc`, the latch and the registers are as they were. -/
theorem latchHeld_congr {s t : State} (hs : s.LatchHeld) (hm : t.memory = s.memory) (hp : t.pc = s.pc)
    (hl : t.latch = s.latch) (hV : t.V = s.V) : t.LatchHeld := by
  intro k hk
  obtain ⟨w, x, hf, hd, hr⟩ := hs k (hl ▸ hk)
  exact ⟨w, x, (fetch_congr hm hp).trans hf, hd, by rw [State.reg, hV]; exact hr⟩

/-- A held latch names the instruction fetched: any other finds it idle. -/
theorem latch_idle_of_decode {s : State} {w : Word16} {i : Instr} (hs : s.LatchHeld) (hf : s.fetch = .ok w)
    (hd : decodeWord w = .ok i) (hi : ∀ x, i ≠ .ldVxK x) : s.latch = .idle := by
  cases hl : s.latch with
  | idle => rfl
  | awaitingRelease k =>
    obtain ⟨w', x, hf', hd', -⟩ := hs k hl
    cases hf.symm.trans hf'
    cases hd.symm.trans hd'
    exact absurd rfl (hi x)

/-- Rule R37: the instruction fetched keeps the latch held only by the `Fx0A` that `pc` addresses. -/
theorem exec_latchHeld {i : Instr} {s t : State} {w : Word16} (hs : s.LatchHeld) (hf : s.fetch = .ok w)
    (hd : decodeWord w = .ok i) (h : exec i s = .next t) : t.LatchHeld := by
  by_cases hi : ∃ x, i = .ldVxK x
  · obtain ⟨x, rfl⟩ := hi
    obtain rfl | ⟨k, -, rfl⟩ | ⟨k, -, rfl⟩ := exec_ldVxK_cases h
    · exact latchHeld_congr hs rfl rfl rfl rfl
    · intro j hj
      cases hj
      exact ⟨w, x, hf, hd, by simp⟩
    · exact latchHeld_of_idle rfl
  · have hi' : ∀ x, i ≠ .ldVxK x := fun x hx => hi ⟨x, hx⟩
    exact latchHeld_of_idle ((exec_latch hi' h).trans (latch_idle_of_decode hs hf hd hi'))

/-! ### The invariant -/

/-- Rules R25, R37: the instruction fetched keeps the invariant. -/
theorem exec_inv {i : Instr} {s t : State} {w : Word16} (hs : s.Inv) (hf : s.fetch = .ok w)
    (hd : decodeWord w = .ok i) (h : exec i s = .next t) : t.Inv where
  memory_wf := exec_memory_wf hs.memory_wf h
  frameStep_lt := exec_frameStep h ▸ hs.frameStep_lt
  pc_le := exec_pc_le (lt_of_fetch hf) hs.stack_le h
  stack_le := exec_stack_le (lt_of_fetch hf) hs.stack_le h
  latch_held := exec_latchHeld hs.latch_held hf hd h

/-- The invariant speaks of memory, `frame_step`, `pc`, the stack, the latch and the registers only. -/
theorem inv_congr {s t : State} (hs : s.Inv) (hj : t.frameStep < Config.stepsPerFrame) (hm : t.memory = s.memory)
    (hp : t.pc = s.pc) (hst : t.stack = s.stack) (hl : t.latch = s.latch) (hV : t.V = s.V) : t.Inv where
  memory_wf := hm ▸ hs.memory_wf
  frameStep_lt := hj
  pc_le := hp ▸ hs.pc_le
  stack_le := hst ▸ hs.stack_le
  latch_held := latchHeld_congr hs.latch_held hm hp hl hV

/-- A fatal error writes its record only. -/
theorem raise_inv {s : State} (hs : s.Inv) (e : FatalError) (w : Option Word16) : (s.raise e w).Inv :=
  inv_congr hs hs.frameStep_lt rfl rfl rfl rfl rfl

/-- A display transaction writes the display only. -/
theorem setDisplay_inv {s : State} (hs : s.Inv) (d : Display) : (s.setDisplay d).Inv :=
  inv_congr hs hs.frameStep_lt rfl rfl rfl rfl rfl

theorem initialized_inv {s : State} (hs : s.Inv) : s.initialized.Inv := by
  rw [initialized_eq]
  exact setDisplay_inv hs _

/-- Rule R232: the end of a step keeps `frame_step` below N. -/
theorem endOfStep_frameStep_lt {s : State} (h : s.frameStep < Config.stepsPerFrame) :
    s.endOfStep.frameStep < Config.stepsPerFrame := by
  obtain ⟨-, e⟩ | ⟨-, -, e⟩ | ⟨-, hj, e⟩ := endOfStep_cases s <;> rw [e]
  · exact h
  · exact Nat.zero_lt_of_lt h
  · exact hj

theorem endOfStep_inv {s : State} (hs : s.Inv) : s.endOfStep.Inv := by
  have hj := endOfStep_frameStep_lt hs.frameStep_lt
  rw [endOfStep_eq] at hj ⊢
  exact inv_congr hs hj rfl rfl rfl rfl rfl

/-- Settles O18, by the cases of a step: each is an instruction or a move of the scheduler, which keep the invariant. -/
theorem stepKeepsTheInvariant : Obligations.StepKeepsTheInvariant := by
  intro s t hs h
  have hi := initialized_inv hs
  obtain ⟨-, ⟨-, rfl⟩ | ⟨-, ⟨e, -, rfl⟩ | ⟨w, -, -, rfl⟩ | ⟨w, i, u, hf, hd, hu, rfl⟩⟩⟩ := step_cases h
  · exact setDisplay_inv hi _
  · exact raise_inv hi e none
  · exact raise_inv hi _ _
  · exact endOfStep_inv (exec_inv hi ((initialized_fetch s).trans hf) hd hu)

/-- Rule R36: the state after reset meets the invariant. -/
theorem reset_inv : State.reset.Inv where
  memory_wf := rfl
  frameStep_lt := by decide
  pc_le := by decide
  stack_le k h := by simp [State.reset]
  latch_held := latchHeld_of_idle rfl

/-- Reset with an accepted image is the reset with the image copied in. -/
theorem resetWith_eq_some {image : List Byte} {s : State} (h : State.resetWith image = some s) :
    image.length ≤ 3584 ∧ s = State.reset.setMemory (State.reset.memory.copyIn Config.loadOffset image) := by
  unfold State.resetWith at h
  split at h
  · rename_i hl
    cases h
    exact ⟨hl, rfl⟩
  · cases h

/-- Settles O17: the image changes memory only, and copying it in keeps memory's form. -/
theorem invariantHoldsAtReset : Obligations.InvariantHoldsAtReset := by
  refine ⟨reset_inv, fun image s h => ?_⟩
  obtain ⟨hl, rfl⟩ := resetWith_eq_some h
  have hin : Config.loadOffset + image.length ≤ Config.memSize := by
    simp only [Config.loadOffset, Config.memSize]
    omega
  exact
    { memory_wf := Memory.wf_copyIn hin rfl
      frameStep_lt := reset_inv.frameStep_lt
      pc_le := reset_inv.pc_le
      stack_le := reset_inv.stack_le
      latch_held := latchHeld_of_idle rfl }

/-- Settles O26: a step is an instruction or a move of the scheduler, and none writes `running`. -/
theorem noStepWritesRunning : Obligations.NoStepWritesRunning := by
  intro s t h
  have hi : s.initialized.running = s.running := by rw [initialized_eq]; rfl
  obtain ⟨-, ⟨-, rfl⟩ | ⟨-, ⟨e, -, rfl⟩ | ⟨w, -, -, rfl⟩ | ⟨w, i, u, -, -, hu, rfl⟩⟩⟩ := step_cases h
  · exact hi
  · exact hi
  · exact hi
  · rw [endOfStep_eq]
    exact (exec_running hu).trans hi

end Sys2Proof.Machine

/-! PROOF. Noninterference (rules R27, R28, R34): a relation between machines that no instruction and no move of the scheduler
can tell apart is kept by every step. What such a relation has to keep is said once, in terms of the updates of State; three
relations keep it: machines that differ in the free stack slots, in the sound timer, in what the device shows. -/

namespace Sys2Proof.Machine

/-! ### The moves of the loop, one equation per branch -/

theorem step_of_fault {s : State} {r : FaultRecord} (h : s.fault = some r) : step s = .fault (.fatal r) := by
  simp only [step, h]

theorem step_of_restored {s : State} (h : s.fault = none) (hs : s.display.surface = .restored) :
    step s = .fault .halted := by
  simp only [step, h, hs, if_true]

/-- At a halting frame boundary the loop ends. -/
theorem loopStep_of_halts {s : State} (h : s.haltsHere = true) : loopStep s = .next s.initialized.shutDown := by
  unfold loopStep
  rw [initialized_haltsHere, if_pos h]

/-- The end of the last step of a frame. -/
theorem endOfStep_of_last {s : State} (h : s.fault = none) (hj : Config.stepsPerFrame ≤ s.frameStep + 1) :
    s.endOfStep = s.presented.tick.setFrameStep 0 := by
  simp [State.endOfStep, h, hj]

/-- The end of any other step. -/
theorem endOfStep_of_inner {s : State} (h : s.fault = none) (hj : ¬Config.stepsPerFrame ≤ s.frameStep + 1) :
    s.endOfStep = s.setFrameStep (s.frameStep + 1) := by
  simp [State.endOfStep, h, hj]

/-! ### Relations that every update keeps -/

/-- `t` with those elements of `s` that no instruction reads in full: the stack, the sound timer and the shown grid. -/
def State.withUnreadOf (t s : State) : State :=
  { t with stack := s.stack, ST := s.ST, display := { t.display with screen := s.display.screen } }

/-- A relation of machines that agree in everything but the stack slots at or above `sp`, the sound timer and the shown grid,
and that every update of State keeps. -/
structure Indistinguishable (R : State → State → Prop) : Prop where
  agree : ∀ {s s'}, R s s' → ∃ u, s' = s.withUnreadOf u
  slots : ∀ {s s'}, R s s' → ∀ k (h : k < Config.stackDepth), k < s.sp.val → s'.stack[k] = s.stack[k]
  /-- The other elements get the same new values, and `sp` stays. -/
  override : ∀ {s s'} (t : State), R s s' → t.sp = s.sp → R (t.withUnreadOf s) (t.withUnreadOf s')
  push : ∀ {s s' a h h'}, R s s' → R (s.push a h) (s'.push a h')
  pop : ∀ {s s'}, R s s' → R s.pop s'.pop
  setST : ∀ {s s' v}, R s s' → R (s.setST v) (s'.setST v)
  countDown : ∀ {s s'}, R s s' → R (s.setST (countDown s.ST)) (s'.setST (countDown s'.ST))
  present : ∀ {s s'}, R s s' → R s.presented s'.presented

namespace Indistinguishable

variable {R : State → State → Prop} {s s' : State} (hR : Indistinguishable R) (h : R s s')
include hR h

/-- An update of elements in which the two agree, to the same new values. -/
theorem update {t t' : State} (hsp : t.sp = s.sp) (ht : t = t.withUnreadOf s) (ht' : t' = t.withUnreadOf s') :
    R t t' := by
  have hr := hR.override t h hsp
  rwa [← ht, ← ht'] at hr

/-- The latest return address is in a slot below `sp`. -/
theorem top_eq (hs : s.sp.val ≠ 0) (hs' : s'.sp.val ≠ 0) : s'.top hs' = s.top hs := by
  obtain ⟨u, rfl⟩ := hR.agree h
  exact hR.slots h _ _ (Nat.pred_lt hs)

theorem related_orRaise {i : Instr} {e : Option FatalError} {rest rest' : State → State}
    (hrest : R (rest s) (rest' s')) : R (s.orRaise i e rest) (s'.orRaise i e rest') := by
  obtain ⟨u, rfl⟩ := hR.agree h
  cases e with
  | none => exact hrest
  | some e => exact hR.update h rfl rfl rfl

/-- Every instruction keeps the relation. -/
theorem related_exec (i : Instr) : ∃ t t', exec i s = .next t ∧ exec i s' = .next t' ∧ R t t' := by
  have htop := hR.top_eq h
  obtain ⟨u, rfl⟩ := hR.agree h
  cases i
  case cls =>
    have hblank : R (s.setDisplay { s.display with pixels := blankGrid })
        ((s.withUnreadOf u).setDisplay { (s.withUnreadOf u).display with pixels := blankGrid }) :=
      hR.update h rfl rfl rfl
    exact ⟨_, _, rfl, rfl, hR.update (hR.present hblank) rfl rfl rfl⟩
  case ret =>
    by_cases hs : s.sp.val = 0
    · exact ⟨_, _, exec_ret_of_empty hs, exec_ret_of_empty hs, hR.update h rfl rfl rfl⟩
    · refine ⟨_, _, exec_ret_of_held hs, exec_ret_of_held (s := s.withUnreadOf u) hs, ?_⟩
      rw [htop hs hs]
      exact hR.update (hR.pop h) rfl rfl rfl
  case call nnn =>
    by_cases hs : s.sp.val < Config.stackDepth
    · exact ⟨_, _, exec_call_of_free nnn hs, exec_call_of_free (s := s.withUnreadOf u) nnn hs,
        hR.update (hR.push h) rfl rfl rfl⟩
    · exact ⟨_, _, exec_call_of_full nnn hs, exec_call_of_full nnn hs, hR.update h rfl rfl rfl⟩
  case drw x y n =>
    cases hr : readBytes s.memory (s.address 0) n with
    | error e => exact ⟨_, _, exec_drw_of_error x y hr, exec_drw_of_error x y hr, hR.update h rfl rfl rfl⟩
    | ok rows => exact ⟨_, _, exec_drw_of_ok x y hr, exec_drw_of_ok x y hr, hR.update h rfl rfl rfl⟩
  case skp x | sknp x =>
    refine ⟨_, _, rfl, rfl, ?_⟩
    rw [keyQueried_eq, keyQueried_eq]
    exact hR.update h rfl rfl rfl
  case ldVxK x =>
    cases hl : s.latch with
    | idle =>
      cases hk : s.chosenKey with
      | none => exact ⟨_, _, exec_ldVxK_of_no_key x hl hk, exec_ldVxK_of_no_key x hl hk, hR.update h rfl rfl rfl⟩
      | some k => exact ⟨_, _, exec_ldVxK_of_press x hl hk, exec_ldVxK_of_press x hl hk, hR.update h rfl rfl rfl⟩
    | awaitingRelease k =>
      cases hk : s.keyPressed k with
      | true => exact ⟨_, _, exec_ldVxK_of_down x hl hk, exec_ldVxK_of_down x hl hk, hR.update h rfl rfl rfl⟩
      | false => exact ⟨_, _, exec_ldVxK_of_release x hl hk, exec_ldVxK_of_release x hl hk, hR.update h rfl rfl rfl⟩
  case ldSTVx x => exact ⟨_, _, rfl, rfl, hR.update (hR.setST h) rfl rfl rfl⟩
  case ldB | storeRegs | loadRegs =>
    refine ⟨_, _, rfl, rfl, ?_⟩
    apply hR.related_orRaise <;> exact hR.update h rfl rfl rfl
  all_goals exact ⟨_, _, rfl, rfl, hR.update h rfl rfl rfl⟩

theorem related_initialized : R s.initialized s'.initialized := by
  obtain ⟨u, rfl⟩ := hR.agree h
  by_cases hs : s.display.surface = .unprepared
  · rw [initialized_of_unprepared hs, initialized_of_unprepared (s := s.withUnreadOf u) hs]
    exact hR.update h rfl rfl rfl
  · rw [initialized_of_ne hs, initialized_of_ne (s := s.withUnreadOf u) hs]
    exact h

theorem related_shutDown : R s.shutDown s'.shutDown := by
  obtain ⟨u, rfl⟩ := hR.agree h
  exact hR.update h rfl rfl rfl

theorem related_endOfStep : R s.endOfStep s'.endOfStep := by
  obtain ⟨u, rfl⟩ := hR.agree h
  cases hf : s.fault with
  | some r =>
    rw [endOfStep_of_fault hf, endOfStep_of_fault (s := s.withUnreadOf u) hf]
    exact h
  | none =>
    by_cases hj : Config.stepsPerFrame ≤ s.frameStep + 1
    · rw [endOfStep_of_last hf hj, endOfStep_of_last (s := s.withUnreadOf u) hf hj]
      exact hR.update (hR.countDown (hR.present h)) rfl rfl rfl
    · rw [endOfStep_of_inner hf hj, endOfStep_of_inner (s := s.withUnreadOf u) hf hj]
      exact hR.update h rfl rfl rfl

/-- The relation is kept by a step that the scheduler counts. -/
theorem related_scheduledStep : ∃ t t', scheduledStep s = .next t ∧ scheduledStep s' = .next t' ∧ R t t' := by
  obtain ⟨u, rfl⟩ := hR.agree h
  cases hf : s.fetch with
  | error e =>
    exact ⟨_, _, scheduledStep_of_fetch_error hf, scheduledStep_of_fetch_error hf, hR.update h rfl rfl rfl⟩
  | ok w =>
    cases hd : decodeWord w with
    | error d =>
      exact ⟨_, _, scheduledStep_of_illegal hf hd, scheduledStep_of_illegal hf hd, hR.update h rfl rfl rfl⟩
    | ok i =>
      obtain ⟨t, t', ht, ht', hr⟩ := hR.related_exec h i
      exact ⟨_, _, scheduledStep_of_exec hf hd ht, scheduledStep_of_exec hf hd ht', hR.related_endOfStep hr⟩

/-- Related machines take the same step: they stop alike, or their next states are related. -/
theorem related_step : (∃ r, step s = .fault r ∧ step s' = .fault r) ∨
    ∃ t t', step s = .next t ∧ step s' = .next t' ∧ R t t' := by
  have hi := hR.related_initialized h
  obtain ⟨u, rfl⟩ := hR.agree h
  cases hf : s.fault with
  | some r => exact .inl ⟨_, step_of_fault hf, step_of_fault hf⟩
  | none =>
    by_cases hs : s.display.surface = .restored
    · exact .inl ⟨_, step_of_restored hf hs, step_of_restored hf hs⟩
    · right
      rw [step_of_live ⟨hf, hs⟩, step_of_live (s := s.withUnreadOf u) ⟨hf, hs⟩]
      cases hh : s.haltsHere with
      | true => exact ⟨_, _, loopStep_of_halts hh, loopStep_of_halts hh, hR.related_shutDown hi⟩
      | false =>
        rw [loopStep_of_not_halts hh, loopStep_of_not_halts (s := s.withUnreadOf u) hh]
        exact hR.related_scheduledStep hi

end Indistinguishable

/-! ### Three relations that no step can tell apart -/

/-- The same machine but for the contents of the stack slots at or above `sp`. -/
def DifferInFreeSlots (s s' : State) : Prop :=
  ∃ W : Vector Word16 Config.stackDepth, s' = { s with stack := W } ∧
    ∀ k (h : k < Config.stackDepth), k < s.sp.val → W[k] = s.stack[k]

/-- Rule R27: a push writes the slot at `sp`, which is the same in both, and a pop only frees a slot. -/
theorem indistinguishable_freeSlots : Indistinguishable DifferInFreeSlots where
  agree := by rintro s _ ⟨W, rfl, -⟩; exact ⟨{ s with stack := W }, rfl⟩
  slots := by rintro s _ ⟨W, rfl, hW⟩; exact hW
  override := by rintro s _ t ⟨W, rfl, hW⟩ hsp; exact ⟨W, rfl, fun k hk hlt => hW k hk (hsp ▸ hlt)⟩
  push := by
    rintro s _ a h h' ⟨W, rfl, hW⟩
    refine ⟨W.set s.sp.val a h, rfl, fun k hk hlt => ?_⟩
    have hle : k < s.sp.val + 1 := hlt
    rw [push_stack, Vector.getElem_set, Vector.getElem_set]
    split
    · rfl
    · exact hW k hk (by omega)
  pop := by
    rintro s _ ⟨W, rfl, hW⟩
    exact ⟨W, rfl, fun k hk hlt => hW k hk (Nat.lt_of_lt_of_le hlt (Nat.sub_le _ _))⟩
  setST := by rintro s _ w ⟨W, rfl, hW⟩; exact ⟨W, rfl, hW⟩
  countDown := by rintro s _ ⟨W, rfl, hW⟩; exact ⟨W, rfl, hW⟩
  present := by rintro s _ ⟨W, rfl, hW⟩; exact ⟨W, rfl, hW⟩

/-- Settles O20: no step tells machines apart that differ in the free stack slots. -/
theorem freeStackSlotsAreNeverRead : Obligations.FreeStackSlotsAreNeverRead := by
  intro s s' hs hW
  have hr : DifferInFreeSlots s s' := ⟨s'.stack, hs, hW⟩
  obtain ⟨r, h, h'⟩ | ⟨t, t', h, h', W, rfl, hW'⟩ := indistinguishable_freeSlots.related_step hr <;> rw [h, h']
  exact ⟨rfl, hW'⟩

/-- The same machine but for the sound timer. -/
def DifferInST (s s' : State) : Prop := ∃ v, s' = { s with ST := v }

/-- Rules R215, R234: the sound timer is written, and counted down, and read for nothing else. -/
theorem indistinguishable_ST : Indistinguishable DifferInST where
  agree := by rintro s _ ⟨v, rfl⟩; exact ⟨{ s with ST := v }, rfl⟩
  slots := by rintro s _ ⟨v, rfl⟩ _ _ _; rfl
  override := by rintro s _ t ⟨v, rfl⟩ _; exact ⟨v, rfl⟩
  push := by rintro s _ a _ _ ⟨v, rfl⟩; exact ⟨v, rfl⟩
  pop := by rintro s _ ⟨v, rfl⟩; exact ⟨v, rfl⟩
  setST := by rintro s _ w ⟨v, rfl⟩; exact ⟨w, rfl⟩
  countDown := by rintro s _ ⟨v, rfl⟩; exact ⟨countDown v, rfl⟩
  present := by rintro s _ ⟨v, rfl⟩; exact ⟨v, rfl⟩

/-- Settles O21: no step tells machines apart that differ in the sound timer. -/
theorem soundTimerIsReadByNothing : Obligations.SoundTimerIsReadByNothing := by
  intro s v
  have hr : DifferInST s { s with ST := v } := ⟨v, rfl⟩
  obtain ⟨r, h, h'⟩ | ⟨t, t', h, h', w, rfl⟩ := indistinguishable_ST.related_step hr <;> rw [h, h']

/-- The same machine but for what the device shows. -/
def DifferInScreen (s s' : State) : Prop := ∃ g, s' = { s with display := { s.display with screen := g } }

/-- Rule R255: the shown grid is overwritten by a present, and read for nothing. -/
theorem indistinguishable_screen : Indistinguishable DifferInScreen where
  agree := by rintro s _ ⟨g, rfl⟩; exact ⟨{ s with display := { s.display with screen := g } }, rfl⟩
  slots := by rintro s _ ⟨g, rfl⟩ _ _ _; rfl
  override := by rintro s _ t ⟨g, rfl⟩ _; exact ⟨g, rfl⟩
  push := by rintro s _ a _ _ ⟨g, rfl⟩; exact ⟨g, rfl⟩
  pop := by rintro s _ ⟨g, rfl⟩; exact ⟨g, rfl⟩
  setST := by rintro s _ w ⟨g, rfl⟩; exact ⟨g, rfl⟩
  countDown := by rintro s _ ⟨g, rfl⟩; exact ⟨g, rfl⟩
  present := by rintro s _ ⟨g, rfl⟩; exact ⟨s.display.pixels, rfl⟩

/-- Settles O22: no step tells machines apart that differ in what the device shows. -/
theorem presentedScreenIsReadByNothing : Obligations.PresentedScreenIsReadByNothing := by
  intro s g
  have hr : DifferInScreen s { s with display := { s.display with screen := g } } := ⟨g, rfl⟩
  obtain ⟨r, h, h'⟩ | ⟨t, t', h, h', f, rfl⟩ := indistinguishable_screen.related_step hr <;> rw [h, h']

end Sys2Proof.Machine

/-! PROOF. Who writes what (rule R38): each element through the table `WritesOnly`, and the registers through what each
instruction sets. -/

namespace Sys2Proof.Machine

/-! ### The elements other than the registers -/

theorem memory_writer {i : Instr} {s t : State} (h : exec i s = .next t) (hne : t.memory ≠ s.memory) :
    ∃ x, i = .ldB x ∨ i = .storeRegs x := by
  have hw := exec_writesOnly h
  cases i
  case ldB x => exact ⟨x, .inl rfl⟩
  case storeRegs x => exact ⟨x, .inr rfl⟩
  all_goals exact absurd (congrArg State.memory hw :) hne

theorem I_writer {i : Instr} {s t : State} (h : exec i s = .next t) (hne : t.I ≠ s.I) :
    (∃ nnn, i = .ldI nnn) ∨ ∃ x, i = .addI x ∨ i = .ldF x ∨ i = .storeRegs x ∨ i = .loadRegs x := by
  have hw := exec_writesOnly h
  cases i
  case ldI nnn => exact .inl ⟨nnn, rfl⟩
  case addI x => exact .inr ⟨x, .inl rfl⟩
  case ldF x => exact .inr ⟨x, .inr (.inl rfl)⟩
  case storeRegs x => exact .inr ⟨x, .inr (.inr (.inl rfl))⟩
  case loadRegs x => exact .inr ⟨x, .inr (.inr (.inr rfl))⟩
  all_goals exact absurd (congrArg State.I hw :) hne

theorem stack_writer {i : Instr} {s t : State} (h : exec i s = .next t) (hne : t.sp ≠ s.sp ∨ t.stack ≠ s.stack) :
    i = .ret ∨ ∃ nnn, i = .call nnn := by
  have hw := exec_writesOnly h
  cases i
  case ret => exact .inl rfl
  case call nnn => exact .inr ⟨nnn, rfl⟩
  all_goals
    exact hne.elim (absurd (congrArg State.sp hw :)) (absurd (congrArg State.stack hw :))

theorem DT_writer {i : Instr} {s t : State} (h : exec i s = .next t) (hne : t.DT ≠ s.DT) : ∃ x, i = .ldDTVx x := by
  have hw := exec_writesOnly h
  cases i
  case ldDTVx x => exact ⟨x, rfl⟩
  all_goals exact absurd (congrArg State.DT hw :) hne

theorem ST_writer {i : Instr} {s t : State} (h : exec i s = .next t) (hne : t.ST ≠ s.ST) : ∃ x, i = .ldSTVx x := by
  have hw := exec_writesOnly h
  cases i
  case ldSTVx x => exact ⟨x, rfl⟩
  all_goals exact absurd (congrArg State.ST hw :) hne

theorem latch_writer {i : Instr} {s t : State} (h : exec i s = .next t) (hne : t.latch ≠ s.latch) :
    ∃ x, i = .ldVxK x := by
  by_contra hi
  exact hne (exec_latch (fun x hx => hi ⟨x, hx⟩) h)

theorem display_writer {i : Instr} {s t : State} (h : exec i s = .next t) (hne : t.display ≠ s.display) :
    i = .cls ∨ ∃ x y n, i = .drw x y n := by
  have hw := exec_writesOnly h
  cases i
  case cls => exact .inl rfl
  case drw x y n => exact .inr ⟨x, y, n, rfl⟩
  all_goals exact absurd (congrArg State.display hw :) hne

theorem inputs_writer {i : Instr} {s t : State} (h : exec i s = .next t) (hne : t.inputs ≠ s.inputs) :
    (∃ x, i = .skp x ∨ i = .sknp x ∨ i = .ldVxK x) ∨ ∃ x kk, i = .rnd x kk := by
  have hw := exec_writesOnly h
  cases i
  case skp x => exact .inl ⟨x, .inl rfl⟩
  case sknp x => exact .inl ⟨x, .inr (.inl rfl)⟩
  case ldVxK x => exact .inl ⟨x, .inr (.inr rfl)⟩
  case rnd x kk => exact .inr ⟨x, kk, rfl⟩
  all_goals exact absurd (congrArg State.inputs hw :) hne

/-! ### The registers (rules R22, R23) -/

/-- Only the register set changes. -/
theorem eq_of_setReg_ne {s : State} {x q : Reg} {v : Byte} (h : (s.setReg x v).reg q ≠ s.reg q) : q = x := by
  by_contra hq
  exact h (by rw [setReg_reg, if_neg hq])

/-- A flag writer changes its destination and `VF` only. -/
theorem eq_of_setResultFlag_ne {s : State} {x q : Reg} {v f : Byte} (h : (s.setResultFlag x v f).reg q ≠ s.reg q) :
    q = x ∨ q = 15 := by
  by_contra hq
  obtain ⟨hx, hf⟩ := not_or.mp hq
  exact h (by rw [setResultFlag_reg, if_neg hf, if_neg hx])

/-- Rule R201: `Dxyn` changes `VF` only. -/
theorem eq_of_drw_reg_ne {s t : State} {x y q : Reg} {n : Nat} (h : exec (.drw x y n) s = .next t)
    (hne : t.reg q ≠ s.reg q) : q = 15 := by
  cases hr : readBytes s.memory (s.address 0) n with
  | error e =>
    rw [exec_drw_of_error x y hr] at h
    cases h
    exact absurd rfl hne
  | ok rows =>
    rw [exec_drw_of_ok x y hr] at h
    cases h
    exact eq_of_setReg_ne (s := s.setDisplay _) hne

/-- Rule R212: a key wait changes its destination only. -/
theorem eq_of_ldVxK_reg_ne {s t : State} {x q : Reg} (h : exec (.ldVxK x) s = .next t) (hne : t.reg q ≠ s.reg q) :
    q = x := by
  obtain rfl | ⟨k, -, rfl⟩ | ⟨k, -, rfl⟩ := exec_ldVxK_cases h
  · exact absurd rfl hne
  · exact eq_of_setReg_ne hne
  · exact absurd rfl hne

/-- Rule R195: a bulk load changes `V[0..x]` only, whether or not it ends in a fatal error. -/
theorem le_of_loadRegs_reg_ne {s t : State} {x q : Reg} (h : exec (.loadRegs x) s = .next t)
    (hne : t.reg q ≠ s.reg q) : q ≤ x := by
  have hV : t.reg q = (loadBytes s.memory (s.address 0) (regsUpTo x) s.V).1[q.val] := by
    cases h
    obtain he | ⟨f, he⟩ := orRaise_cases .. <;> rw [he] <;> rfl
  by_contra hq
  rw [hV, loadBytes_getElem (regsUpTo_nodup x), if_neg (fun hin => hq (mem_regsUpTo.mp hin.1))] at hne
  exact hne rfl

/-- Who writes a general register. -/
theorem reg_writer {i : Instr} {s t : State} (h : exec i s = .next t) (q : Reg) (hne : t.reg q ≠ s.reg q) :
    (∃ kk, i = .ldImm q kk ∨ i = .addImm q kk ∨ i = .rnd q kk) ∨ i = .ldVxDT q ∨ i = .ldVxK q ∨
    (∃ x, i = .loadRegs x ∧ q ≤ x) ∨ (∃ y, i = .ldReg q y) ∨
    (∃ x y, (q = x ∨ q = 15) ∧ (i = .orReg x y ∨ i = .andReg x y ∨ i = .xorReg x y ∨ i = .addReg x y ∨
      i = .subReg x y ∨ i = .shr x y ∨ i = .subnReg x y ∨ i = .shl x y)) ∨
    (q = 15 ∧ ∃ x y n, i = .drw x y n) := by
  have hw := exec_writesOnly h
  cases i
  case ldImm x kk | addImm x kk =>
    cases h
    cases eq_of_setReg_ne hne
    exact .inl ⟨kk, by simp⟩
  case rnd x kk =>
    cases h
    cases eq_of_setReg_ne (s := s.answered) hne
    exact .inl ⟨kk, by simp⟩
  case ldVxDT x =>
    cases h
    cases eq_of_setReg_ne hne
    exact .inr (.inl rfl)
  case ldVxK x =>
    cases eq_of_ldVxK_reg_ne h hne
    exact .inr (.inr (.inl rfl))
  case loadRegs x => exact .inr (.inr (.inr (.inl ⟨x, rfl, le_of_loadRegs_reg_ne h hne⟩)))
  case ldReg x y =>
    cases h
    cases eq_of_setReg_ne hne
    exact .inr (.inr (.inr (.inr (.inl ⟨y, rfl⟩))))
  case orReg x y | andReg x y | xorReg x y | addReg x y | subReg x y | shr x y | subnReg x y | shl x y =>
    cases h
    exact .inr (.inr (.inr (.inr (.inr (.inl ⟨x, y, eq_of_setResultFlag_ne hne, by simp⟩)))))
  case drw x y n => exact .inr (.inr (.inr (.inr (.inr (.inr ⟨eq_of_drw_reg_ne h hne, x, y, n, rfl⟩)))))
  all_goals exact absurd (congrArg (·.reg q) hw :) hne

/-- Settles O19: the writers of each element, one lemma per element. -/
theorem eachElementIsWrittenOnlyByItsInstructions : Obligations.EachElementIsWrittenOnlyByItsInstructions :=
  fun _ _ _ h => ⟨memory_writer h, I_writer h, stack_writer h, DT_writer h, ST_writer h, latch_writer h,
    display_writer h, inputs_writer h, exec_running h, exec_frameStep h, reg_writer h⟩

end Sys2Proof.Machine

/-! PROOF. The canonical form of memory, what reset leaves, and the instructions of the call stack, the address register and the
key wait, with what each leaves unchanged (rules R21, R24, R26, R29, R36, R60). -/

namespace Sys2Proof.Machine

/-! ### Memory in canonical form (rule R60) -/

theorem Memory.wfFrom_cons {lo a : Nat} {v : Byte} {m : Memory} :
    Memory.wfFrom lo ((a, v) :: m) = true ↔
      lo ≤ a ∧ a < Config.memSize ∧ v ≠ resetByte a ∧ Memory.wfFrom (a + 1) m = true := by
  simp only [Memory.wfFrom, Bool.and_eq_true, decide_eq_true_eq, and_assoc]

theorem Memory.read_cons_self (a : Nat) (v : Byte) (m : Memory) : Memory.read ((a, v) :: m) a = v := if_pos rfl

theorem Memory.read_cons_of_ne {a b : Nat} (h : b ≠ a) (v : Byte) (m : Memory) :
    Memory.read ((a, v) :: m) b = m.read b := if_neg h

/-- At its first listed address a memory differs from one that lists only higher ones. -/
theorem Memory.read_first_ne {lo a : Nat} {v : Byte} {m m' : Memory} (hm : Memory.wfFrom lo ((a, v) :: m) = true)
    (hm' : Memory.wfFrom (a + 1) m' = true) : Memory.read ((a, v) :: m) a ≠ m'.read a := by
  obtain ⟨-, -, hv, -⟩ := Memory.wfFrom_cons.mp hm
  rw [Memory.read_cons_self, Memory.read_of_lt hm' (Nat.lt_succ_self a)]
  exact hv

/-- By the first listed addresses of the two: where they differ, so do the bytes there; where they agree, so do the rests. -/
theorem Memory.eq_of_read_eq : ∀ {m m' : Memory} {lo : Nat}, Memory.wfFrom lo m = true → Memory.wfFrom lo m' = true →
    (∀ a < Config.memSize, m.read a = m'.read a) → m = m'
  | [], [], _, _, _, _ => rfl
  | [], (b, u) :: m', _, _, hm', h => by
    obtain ⟨-, hb, -, -⟩ := Memory.wfFrom_cons.mp hm'
    exact absurd (h b hb).symm (Memory.read_first_ne hm' rfl)
  | (a, v) :: m, [], _, hm, _, h => by
    obtain ⟨-, ha, -, -⟩ := Memory.wfFrom_cons.mp hm
    exact absurd (h a ha) (Memory.read_first_ne hm rfl)
  | (a, v) :: m, (b, u) :: m', lo, hm, hm', h => by
    obtain ⟨-, ha, hv, hmt⟩ := Memory.wfFrom_cons.mp hm
    obtain ⟨-, hb, hu, hmt'⟩ := Memory.wfFrom_cons.mp hm'
    obtain hab | rfl | hab := Nat.lt_trichotomy a b
    · exact absurd (h a ha) (Memory.read_first_ne hm (Memory.wfFrom_cons.mpr ⟨hab, hb, hu, hmt'⟩))
    · have hrest : m = m' := Memory.eq_of_read_eq hmt hmt' fun c hc => by
        by_cases hca : c = a
        · rw [hca, Memory.read_of_lt hmt (Nat.lt_succ_self a), Memory.read_of_lt hmt' (Nat.lt_succ_self a)]
        · simpa only [Memory.read_cons_of_ne hca] using h c hc
      have hvu : v = u := by simpa only [Memory.read_cons_self] using h a ha
      rw [hrest, hvu]
    · exact absurd (h b hb).symm (Memory.read_first_ne hm' (Memory.wfFrom_cons.mpr ⟨hab, ha, hv, hmt⟩))

/-- Settles O14: the canonical form is unique. -/
theorem memoriesThatReadAlikeAreEqual : Obligations.MemoriesThatReadAlikeAreEqual :=
  fun _ _ hm hm' h => Memory.eq_of_read_eq hm hm' h

/-! ### What reset leaves (rules R36, R67, R302) -/

/-- Rule R302: copying bytes in leaves every byte outside their addresses as it was. -/
theorem Memory.read_copyIn_of_outside : ∀ {vs : List Byte} {m : Memory} {a b : Nat}, b < a ∨ a + vs.length ≤ b →
    (m.copyIn a vs).read b = m.read b
  | [], _, _, _, _ => rfl
  | v :: vs, m, a, b, h => by
    rw [List.length_cons] at h
    rw [Memory.copyIn, Memory.read_copyIn_of_outside (by omega), Memory.read_write_of_ne (by omega)]

/-- Rule R67: outside the font zone reset leaves 0. -/
theorem resetByte_of_outside {a : Nat} (h : a < 0x50 ∨ 0xA0 ≤ a) : resetByte a = 0 := by
  unfold resetByte
  split
  · rename_i hle
    have hlen : fontTable.length ≤ a - Config.fontOffset := by
      rw [show fontTable.length = 80 from rfl]
      simp only [Config.fontOffset] at hle ⊢
      omega
    rw [List.getD_eq_getElem?_getD, List.getElem?_eq_none hlen]
    rfl
  · rfl

/-- What an accepted image leaves outside itself is what reset leaves there. -/
theorem read_of_resetWith {image : List Byte} {s : State} {a : Nat} (h : State.resetWith image = some s)
    (ha : a < 0x200 ∨ 0x200 + image.length ≤ a) : s.memory.read a = resetByte a := by
  obtain ⟨-, rfl⟩ := resetWith_eq_some h
  exact Memory.read_copyIn_of_outside ha

/-- Rule R68: below the program zone the font zone holds the font table. -/
theorem font_of_resetWith {image : List Byte} {s : State} (h : State.resetWith image = some s) :
    ((List.range 80).map fun j => (s.memory.read (0x50 + j)).toNat) = fontTable.map BitVec.toNat := by
  have hread : ∀ j ∈ List.range 80, (s.memory.read (0x50 + j)).toNat = (resetByte (0x50 + j)).toNat := fun j hj => by
    have hlt := List.mem_range.mp hj
    rw [read_of_resetWith h (by omega)]
  rw [List.map_congr_left hread]
  decide

/-- Settles O16: an accepted image changes memory only, and there only its own bytes. -/
theorem resetLeavesTheRestAtItsResetValue : Obligations.ResetLeavesTheRestAtItsResetValue := by
  refine ⟨fun image hl => if_neg (Nat.not_le.mpr hl), fun image s h => ?_⟩
  have hfont := font_of_resetWith h
  have hzero : ∀ a, a < 0x50 ∨ (0xA0 ≤ a ∧ a < 0x200) ∨ 0x200 + image.length ≤ a →
      s.memory.read a = 0 := fun a ha => by
    rw [read_of_resetWith h (by omega), resetByte_of_outside (by omega)]
  obtain ⟨-, rfl⟩ := resetWith_eq_some h
  refine ⟨fun r => ?_, rfl, rfl, rfl, rfl, fun k hk => ?_, rfl, rfl, rfl, rfl, rfl, fun c r => ?_, hfont, hzero⟩
  · simp [State.reg, State.reset]
  · simp [State.reset]
  · exact blankGrid_pixel c r

/-! ### The register file as a port (rules R20 to R22) -/

theorem get?_of_lt {V : RegFile} {r : Nat} (h : r < Config.numRegisters) : V.get? r = .ok V[r] := dif_pos h

theorem get?_of_le {V : RegFile} {r : Nat} (h : Config.numRegisters ≤ r) :
    V.get? r = .error (.invalidRegisterIndex r) := dif_neg (Nat.not_lt.mpr h)

theorem set?_of_lt {V : RegFile} {r : Nat} (v : Byte) (h : r < Config.numRegisters) :
    V.set? r v = .ok (V.set r v) := dif_pos h

theorem set?_of_le {V : RegFile} {r : Nat} (v : Byte) (h : Config.numRegisters ≤ r) :
    V.set? r v = .error (.invalidRegisterIndex r) := dif_neg (Nat.not_lt.mpr h)

/-- Rule R22: a set leaves what the port answers for every other index, existing or not. -/
theorem get?_set_of_ne {V : RegFile} {r q : Nat} (v : Byte) (h : r < Config.numRegisters) (hq : q ≠ r) :
    RegFile.get? (V.set r v) q = V.get? q := by
  by_cases hlt : q < Config.numRegisters
  · rw [get?_of_lt hlt, get?_of_lt hlt, Vector.getElem_set_ne _ _ (Ne.symm hq)]
  · rw [get?_of_le (Nat.not_lt.mp hlt), get?_of_le (Nat.not_lt.mp hlt)]

/-- Settles O12: the port reads what it set, and answers an index above 15 with its error. -/
theorem registerFileReadsWhatWasSet : Obligations.RegisterFileReadsWhatWasSet := by
  refine fun V r v => ⟨fun h => ?_, fun h => ⟨set?_of_le v h, get?_of_le h⟩⟩
  have hlt : r < Config.numRegisters := Nat.lt_succ_of_le h
  refine ⟨_, set?_of_lt v hlt, ?_, fun q hq => get?_set_of_ne v hlt hq⟩
  rw [get?_of_lt hlt, Vector.getElem_set_self]

/-! ### The call stack (rules R26, R27, R140, R142) -/

/-- Settles O31: the two branches of the return. -/
theorem retResumesTwoPastTheSavedAddress : Obligations.RetResumesTwoPastTheSavedAddress :=
  fun _ => ⟨fun hs => ⟨_, exec_ret_of_held hs, rfl, rfl, rfl⟩, fun hs => exec_ret_of_empty hs⟩

/-- Rule R92: the word of a call as a number. -/
theorem encode_call (nnn : BitVec 12) : encode (.call nnn) = BitVec.ofNat 16 (0x2000 + nnn.toNat) :=
  (ofNat_eq_formatFA 0x2 nnn).symm

/-- Settles O33: the two branches of the call. -/
theorem callSavesItsOwnAddress : Obligations.CallSavesItsOwnAddress := by
  refine fun nnn s => ⟨fun hs => ?free, fun hs => ?full⟩
  case free =>
    refine ⟨_, exec_call_of_free nnn hs, rfl, zext16_toNat nnn, ?_, fun k hk hne => ?_, rfl⟩
    · exact Vector.getElem_set_self hs
    · exact Vector.getElem_set_ne hs hk (Ne.symm hne)
  case full =>
    have hfull : ¬s.sp.val < Config.stackDepth := Nat.not_lt.mpr hs.ge
    rw [exec_call_of_full nnn hfull, encode_call]
    rfl

/-- Settles O34: the call leaves its own address in the slot below the new `sp`, and the return reads it there. -/
theorem retAfterCallResumesAfterTheCall : Obligations.RetAfterCallResumesAfterTheCall := by
  intro nnn s hs
  refine ⟨_, exec_call_of_free nnn hs, fun u hst hsp => ?_⟩
  have hsp' : u.sp.val = s.sp.val + 1 := congrArg Fin.val hsp
  have hst' : u.stack = s.stack.set s.sp.val s.pc hs := hst
  have hheld : u.sp.val ≠ 0 := by omega
  have htop : u.top hheld = s.pc := by
    simp [State.top, hst', hsp']
  refine ⟨_, exec_ret_of_held hheld, ?_, ?_, fun k hk hlt => ?_, rfl⟩
  · rw [setPc_pc, htop]
  · exact Fin.ext (by simp [hsp'])
  · rw [setPc_stack, pop_stack]
    simp only [hst']
    exact Vector.getElem_set_ne _ _ (by omega)

/-! ### The address register (rules R191, R192) -/

/-- Settles O44: the sum wraps as a 16-bit sum does, and the glyph address is the number R192 gives. -/
theorem addressRegisterArithmetic : Obligations.AddressRegisterArithmetic := by
  refine fun x s => ⟨⟨_, rfl, ?_, rfl, rfl⟩, ⟨_, rfl, glyphAddress_toNat _, rfl, rfl⟩⟩
  have hv : (s.reg x).toNat < 2 ^ 16 := Nat.lt_of_lt_of_le (s.reg x).isLt (by decide)
  rw [next_I, setI_I, BitVec.toNat_add, BitVec.toNat_setWidth, Nat.mod_eq_of_lt hv]

/-! ### The key wait (rules R29, R212) -/

/-- Settles O54: the four branches of one poll. -/
theorem keyWaitTakesAPressAndThenItsRelease : Obligations.KeyWaitTakesAPressAndThenItsRelease := by
  refine fun x s => ⟨fun hl => ?_, fun k hl => ?_⟩
  · cases hk : s.chosenKey with
    | none => exact ⟨_, exec_ldVxK_of_no_key x hl hk, .inl ⟨chosenKey_eq_none.mp hk, rfl⟩⟩
    | some k =>
      refine ⟨_, exec_ldVxK_of_press x hl hk, .inr ⟨k, keyPressed_of_chosenKey hk, rfl, ?_, fun q hq => ?_, rfl⟩⟩
      · simp
      · simp [hq]
  · cases hk : s.keyPressed k with
    | true =>
      have hd : Config.keyDown s.inputs k = true := hk
      rw [exec_ldVxK_of_down x hl hk, if_pos hd]
      rfl
    | false =>
      have hd : ¬Config.keyDown s.inputs k = true := by rw [show Config.keyDown s.inputs k = false from hk]; decide
      rw [exec_ldVxK_of_release x hl hk, if_neg hd]
      rfl

end Sys2Proof.Machine

/-! PROOF. The decoder reads back what the encoder writes (rules R92 to R96): first the trees below the families 8, E and F,
then the one round trip of a word, case by case along the formats, and the bytes memory holds. -/

namespace Sys2Proof

/-! ### The families whose low bits select the operation (rule R95) -/

theorem decodeWord_of_alu {w : Word16} (h : (nibbleA w).toNat = 0x8) : decodeWord w = decodeAlu w := by
  simp only [decodeWord, h]

theorem decodeWord_of_key {w : Word16} (h : (nibbleA w).toNat = 0xE) : decodeWord w = decodeKey w := by
  simp only [decodeWord, h]

theorem decodeWord_of_misc {w : Word16} (h : (nibbleA w).toNat = 0xF) : decodeWord w = decodeMisc w := by
  simp only [decodeWord, h]

/-! ### The round trip -/

/-- Rules R92 to R96: the family nibble, and in the families 0, 5, 8, 9, E and F the low bits, lead to the instruction's own leaf
of the decoder's tree, where its operands are the fields they were written to; a sprite count fits its field when well formed. -/
theorem decodeWord_encode {i : Instr} (h : i.wellFormed = true) : decodeWord (encode i) = .ok i := by
  cases i
  case cls | ret => decide
  case jp | call | ldI | jpV0 | seImm | sneImm | ldImm | addImm | rnd =>
    simp [encode, decodeWord]
  case seReg | sneReg =>
    simp [encode, decodeWord]
  case ldReg | orReg | andReg | xorReg | addReg | subReg | shr | subnReg | shl =>
    rw [encode, decodeWord_of_alu (nibbleA_formatFXY ..)]
    simp [decodeAlu]
  case drw x y n =>
    have hn : n ≤ 15 := of_decide_eq_true h
    have hfield : n % 16 = n := Nat.mod_eq_of_lt (by omega)
    simp [encode, decodeWord, hfield]
  case skp | sknp =>
    rw [encode, decodeWord_of_key (nibbleA_formatFXK ..)]
    simp [decodeKey]
  case ldVxDT | ldVxK | ldDTVx | ldSTVx | addI | ldF | ldB | storeRegs | loadRegs =>
    rw [encode, decodeWord_of_misc (nibbleA_formatFXK ..)]
    simp [decodeMisc]

/-- Settles O2: the two bytes of the encoding join to its word again, and the word decodes to the instruction. -/
theorem decodeOfEncodeIsTheInstruction : Obligations.DecodeOfEncodeIsTheInstruction := by
  refine fun i h => ⟨decodeWord_encode h, fun rest => ?_⟩
  calc decode (encodeBytes i ++ rest)
      = (decodeWord (joinBytes (highByte (encode i)) (lowByte (encode i)))).map (·, rest) := decode_cons_cons ..
    _ = .ok (i, rest) := by rw [joinBytes_high_low, decodeWord_encode h]; rfl

end Sys2Proof

/-! PROOF. Memory from outside the instructions: the controller's reads and writes, the image reset copies in, and the word the
step fetches (rules R62 to R65, R121, R302). -/

namespace Sys2Proof.Machine

/-! ### The controller (rules R62, R63) -/

/-- Rule R63: a write leaves what the controller answers for every other address, existing or not. -/
theorem memRead_write_of_ne {m : Memory} {a b : Nat} (v : Byte) (h : b ≠ a) : memRead (m.write a v) b = memRead m b := by
  by_cases hb : b < Config.memSize
  · rw [memRead_of_lt hb, memRead_of_lt hb, Memory.read_write_of_ne h]
  · rw [memRead_of_le (Nat.not_lt.mp hb), memRead_of_le (Nat.not_lt.mp hb)]

/-- Settles O13: below MEMSIZE by the laws of one byte, from MEMSIZE on by the bounds check. -/
theorem memoryControllerReadsWhatWasWritten : Obligations.MemoryControllerReadsWhatWasWritten := by
  refine fun m a v hm => ⟨fun ha => ?_, fun ha => ⟨memRead_of_le ha, memWrite_of_le ha⟩⟩
  refine ⟨memRead_of_lt ha, _, memWrite_of_lt ha, Memory.wf_write ha v hm, ?_, fun b hb => memRead_write_of_ne v hb⟩
  rw [memRead_of_lt ha, Memory.read_write_self a v hm]

/-! ### The image reset copies in (rule R302) -/

/-- Rule R302: an image that stays in memory is read back byte for byte from where it was copied to. -/
theorem Memory.read_copyIn : ∀ {vs : List Byte} {m : Memory} {a : Nat}, m.wf = true → a + vs.length ≤ Config.memSize →
    ∀ j (h : j < vs.length), (m.copyIn a vs).read (a + j) = vs[j]
  | v :: vs, m, a, hm, hle, 0, _ => by
    change ((m.write a v).copyIn (a + 1) vs).read a = v
    rw [Memory.read_copyIn_of_outside (.inl (Nat.lt_add_one a))]
    exact Memory.read_write_self a v hm
  | v :: vs, m, a, hm, hle, j + 1, h => by
    rw [List.length_cons] at hle h
    rw [Memory.copyIn, show a + (j + 1) = a + 1 + j by omega, List.getElem_cons_succ]
    exact Memory.read_copyIn (Memory.wf_write (by omega) v hm) (by omega) j (by omega)

/-- Settles O15: an image of at most 3584 bytes stays in memory, and reset sets `pc` to where it begins. -/
theorem resetCopiesTheImageVerbatim : Obligations.ResetCopiesTheImageVerbatim := by
  refine fun image hl => ⟨_, if_pos hl, rfl, ?_⟩
  have hin : Config.loadOffset + image.length ≤ Config.memSize := by
    simp only [Config.loadOffset, Config.memSize]
    omega
  exact Memory.read_copyIn reset_inv.memory_wf hin

/-! ### The word the step fetches (rules R65, R121) -/

/-- A live machine whose fetch fails records the error without a word. -/
theorem step_of_fetch_error {s : State} {e : FatalError} (hl : s.Live) (hh : s.haltsHere = false)
    (he : s.fetch = .error e) : step s = .next { s.initialized with fault := some ⟨e, s.pc, none⟩ } := by
  have hpc : s.initialized.pc = s.pc := by rw [initialized_eq]; rfl
  rw [step_of_live hl, loopStep_of_not_halts hh, scheduledStep_of_fetch_error ((initialized_fetch s).trans he), ← hpc]
  rfl

/-- Settles O7: the two bytes of a fetch that stays in memory, and the first address outside of one that does not. -/
theorem fetchReadsTwoBytesOrIsFatal : Obligations.FetchReadsTwoBytesOrIsFatal := by
  refine fun s hl hh => ⟨fun hpc => ?inside, fun hpc => ?last, fun hpc => ?outside⟩
  case inside =>
    have hlt : s.pc.toNat + 1 < Config.memSize := Nat.succ_lt_succ hpc
    exact ⟨_, fetch_of_lt hlt, joinBytes_toNat ..⟩
  case last =>
    have he := fetch_of_le (s := s) (by rw [hpc]; decide)
    rw [hpc] at he
    exact step_of_fetch_error hl hh he
  case outside =>
    have hle : Config.memSize ≤ s.pc.toNat := hpc
    have he := fetch_of_le (Nat.le_succ_of_le hle)
    rw [Nat.max_eq_left hle] at he
    exact step_of_fetch_error hl hh he

/-- A word below 65536 is the number the host names it by. -/
theorem tableWord_of_lt {w : Nat} (h : w < 65536) : tableWord 16 w = BitVec.ofNat 16 w := by
  have hw : w % 2 ^ 16 = w := Nat.mod_eq_of_lt h
  rw [tableWord, hw]

/-- Rule R65: where both bytes exist, the high byte goes to the lower address. -/
theorem Memory.placeWord_of_lt {m : Memory} {a : Nat} (w : Word16) (h : a + 1 < Config.memSize) :
    m.placeWord a w = (m.write a (highByte w)).write (a + 1) (lowByte w) := if_pos h

/-- A placed word leaves every byte but its two. -/
theorem Memory.read_placeWord_of_ne {m : Memory} {a b : Nat} (w : Word16) (h : b ≠ a) (h' : b ≠ a + 1) :
    (m.placeWord a w).read b = m.read b := by
  unfold Memory.placeWord
  split
  · rw [Memory.read_write_of_ne h', Memory.read_write_of_ne h]
  · rfl

/-- Rules R65, R121: a word placed at `pc` is the word fetched. -/
theorem fetch_setMemory_placeWord {s : State} (w : Word16) (hm : s.memory.wf = true)
    (h : s.pc.toNat + 1 < Config.memSize) : (s.setMemory (s.memory.placeWord s.pc.toNat w)).fetch = .ok w := by
  have hm' : (s.memory.write s.pc.toNat (highByte w)).wf = true := Memory.wf_write (by omega) _ hm
  have hpc : (s.setMemory (s.memory.placeWord s.pc.toNat w)).pc.toNat + 1 < Config.memSize := h
  rw [fetch_of_lt hpc, setMemory_memory, setMemory_pc, Memory.placeWord_of_lt w h,
    Memory.read_write_self _ _ hm', Memory.read_write_of_ne (by omega), Memory.read_write_self _ _ hm, joinBytes_high_low]

/-- Settles O6: `withFetchWord` places the word at `pc`, and writes memory only. -/
theorem storedWordIsFetched : Obligations.StoredWordIsFetched := by
  refine fun s w hm hpc hw => ⟨?_, Memory.wf_placeWord _ _ hm, fun a ha ha' => Memory.read_placeWord_of_ne _ ha ha', rfl⟩
  rw [← tableWord_of_lt hw]
  exact fetch_setMemory_placeWord _ hm hpc

end Sys2Proof.Machine

/-! PROOF. The three instructions that move bytes between registers and memory (rules R64, R193 to R195, R278): which bytes a
sequence of stores changes, when it ends in a fatal error, and what each instruction answers in either case. -/

namespace Sys2Proof.Machine

/-! ### Sequences of stores and loads, case by case (rules R64, R278) -/

/-- Each byte is stored at its own address if that address exists. -/
theorem storeBytes_read_at {vs : List Byte} {m : Memory} {a k : Nat} (hm : m.wf = true) (hk : k < vs.length)
    (h : a + k < Config.memSize) : (storeBytes m a vs).1.read (a + k) = vs[k] := by
  rw [storeBytes_read hm, if_pos ⟨Nat.le_add_right a k, Nat.add_lt_add_left hk a, h⟩, Nat.add_sub_cancel_left,
    List.getD_eq_getElem _ _ hk]

/-- No other byte changes. -/
theorem storeBytes_read_of_ne {vs : List Byte} {m : Memory} {a b : Nat} (hm : m.wf = true)
    (h : ∀ k < vs.length, a + k < Config.memSize → b ≠ a + k) : (storeBytes m a vs).1.read b = m.read b := by
  rw [storeBytes_read hm, if_neg]
  rintro ⟨hle, hlt, hb⟩
  exact h (b - a) (by omega) (by omega) (by omega)

theorem storeBytes_error_of_le {vs : List Byte} {m : Memory} {a : Nat} (h : a + vs.length ≤ Config.memSize) :
    (storeBytes m a vs).2 = none :=
  storeBytes_error.trans (if_pos (.inr h))

theorem storeBytes_error_of_lt {vs : List Byte} {m : Memory} {a : Nat} (hne : vs ≠ [])
    (h : Config.memSize < a + vs.length) :
    (storeBytes m a vs).2 = some (.outOfBoundsMemoryAccess (max a Config.memSize)) :=
  storeBytes_error.trans (if_neg (not_or.mpr ⟨hne, Nat.not_le.mpr h⟩))

theorem loadBytes_error_of_le {rs : List Reg} {m : Memory} {a : Nat} {V : RegFile}
    (h : a + rs.length ≤ Config.memSize) : (loadBytes m a rs V).2 = none :=
  loadBytes_error.trans (if_pos (.inr h))

theorem loadBytes_error_of_lt {rs : List Reg} {m : Memory} {a : Nat} {V : RegFile} (hne : rs ≠ [])
    (h : Config.memSize < a + rs.length) :
    (loadBytes m a rs V).2 = some (.outOfBoundsMemoryAccess (max a Config.memSize)) :=
  loadBytes_error.trans (if_neg (not_or.mpr ⟨hne, Nat.not_le.mpr h⟩))

theorem orRaise_of_none {s : State} {i : Instr} {e : Option FatalError} {rest : State → State} (he : e = none) :
    s.orRaise i e rest = rest s := by
  rw [he]
  rfl

theorem orRaise_of_some {s : State} {i : Instr} {e : Option FatalError} {f : FatalError} {rest : State → State}
    (he : e = some f) : s.orRaise i e rest = s.raise f (some (encode i)) := by
  rw [he]
  rfl

/-- A fatal error changes the record only, so what the rest leaves alone is as it was either way. -/
theorem orRaise_memory {s : State} {i : Instr} {e : Option FatalError} {rest : State → State}
    (h : (rest s).memory = s.memory) : (s.orRaise i e rest).memory = s.memory := by
  obtain he | ⟨f, he⟩ := orRaise_cases s i e rest <;> rw [he]
  · exact h
  · rfl

theorem orRaise_V {s : State} {i : Instr} {e : Option FatalError} {rest : State → State}
    (h : (rest s).V = s.V) : (s.orRaise i e rest).V = s.V := by
  obtain he | ⟨f, he⟩ := orRaise_cases s i e rest <;> rw [he]
  · exact h
  · rfl

/-! ### `Fx33` (rule R193) -/

/-- What the stores of `Fx33` leave. -/
def State.bcdStored (s : State) (x : Reg) : State :=
  s.setMemory (storeBytes s.memory (s.address 0) (bcdDigits (s.reg x))).1

theorem exec_ldB_of_lt {x : Reg} {s : State} (h : s.address 2 < Config.memSize) :
    exec (.ldB x) s = .next (s.bcdStored x).next :=
  congrArg Host.Outcome.next (orRaise_of_none (storeBytes_error_of_le h))

theorem exec_ldB_of_le {x : Reg} {s : State} (h : Config.memSize ≤ s.address 2) :
    exec (.ldB x) s = .next ((s.bcdStored x).raise (.outOfBoundsMemoryAccess (max (s.address 0) Config.memSize))
      (some (encode (.ldB x)))) :=
  congrArg Host.Outcome.next
    (orRaise_of_some (storeBytes_error_of_lt (List.cons_ne_nil _ _) (Nat.lt_succ_of_le h)))

/-- What was stored stays, whether or not an address is missing. -/
theorem exec_ldB_memory {x : Reg} {s t : State} (h : exec (.ldB x) s = .next t) :
    t.memory = (s.bcdStored x).memory := by
  cases h
  exact orRaise_memory rfl

@[simp] theorem bcdDigits_length (v : Byte) : (bcdDigits v).length = 3 := rfl

/-- Digit `k` is stored at `I + k` if that address exists. -/
theorem exec_ldB_read_address {x : Reg} {s t : State} {k : Nat} (hm : s.memory.wf = true)
    (h : exec (.ldB x) s = .next t) (hk : k < 3) (hlt : s.address k < 4096) :
    t.memory.read (s.address k) = (bcdDigits (s.reg x))[k] := by
  have ha : s.address 0 + k < Config.memSize := hlt
  rw [exec_ldB_memory h]
  exact storeBytes_read_at hm hk ha

theorem exec_ldB_read_of_ne {x : Reg} {s t : State} {a : Nat} (hm : s.memory.wf = true)
    (h : exec (.ldB x) s = .next t) (ha : ∀ k < 3, s.address k < 4096 → a ≠ s.address k) :
    t.memory.read a = s.memory.read a := by
  rw [exec_ldB_memory h]
  exact storeBytes_read_of_ne hm ha

/-- Rule R193: hundreds, tens and units, each below 10, as numbers. -/
theorem bcdDigits_toNat (v : Byte) :
    ((bcdDigits v)[0]).toNat = v.toNat / 100 ∧
    ((bcdDigits v)[1]).toNat = v.toNat / 10 % 10 ∧
    ((bcdDigits v)[2]).toNat = v.toNat % 10 := by
  have hv := v.isLt
  simp only [bcdDigits, List.getElem_cons_zero, List.getElem_cons_succ, BitVec.toNat_ofNat]
  omega

/-- Settles O45: digit `k` is the byte at `I + k` where that address exists, and `Fx33` writes nowhere else. -/
theorem bcdDigitsAreStoredFromI : Obligations.BcdDigitsAreStoredFromI := by
  intro x s hm
  obtain ⟨t, ht⟩ := exec_next (.ldB x) s
  refine ⟨t, ht, exec_memory_wf hm ht, exec_writesOnly ht, fun a => ?memory, fun hlt => ?inside, fun hle => ?outside⟩
  case memory =>
    obtain ⟨hundreds, tens, units⟩ := bcdDigits_toNat (s.reg x)
    split_ifs with hout h0 h1 h2
    · rw [exec_ldB_read_of_ne hm ht fun k _ hlt => by omega]
    · subst h0
      rw [exec_ldB_read_address hm ht (k := 0) (by decide) (Nat.lt_of_not_le hout), hundreds]
    · subst h1
      rw [exec_ldB_read_address hm ht (k := 1) (by decide) (Nat.lt_of_not_le hout), tens]
    · subst h2
      rw [exec_ldB_read_address hm ht (k := 2) (by decide) (Nat.lt_of_not_le hout), units]
    · rw [exec_ldB_read_of_ne hm ht fun k hk _ => by interval_cases k <;> assumption]
  case inside =>
    rw [exec_ldB_of_lt hlt] at ht
    cases ht
    exact ⟨rfl, rfl⟩
  case outside =>
    rw [exec_ldB_of_le hle] at ht
    cases ht
    exact ⟨rfl, rfl⟩

/-! ### `Fx55` (rule R194) -/

/-- What the stores of `Fx55` leave. -/
def State.regsStored (s : State) (x : Reg) : State :=
  s.setMemory (storeBytes s.memory (s.address 0) (s.regValues x)).1

theorem regValues_length (s : State) (x : Reg) : (s.regValues x).length = x.val + 1 :=
  (List.length_map _).trans (regsUpTo_length x)

theorem regValues_getElem {s : State} {x q : Reg} (h : q.val < (s.regValues x).length) :
    (s.regValues x)[q.val] = s.reg q := by
  simp [State.regValues, regsUpTo]

/-- Rule R61: `n + 1` bytes from `I` on exist exactly when the last of them does. -/
theorem address_zero_add_succ (s : State) (n : Nat) : s.address 0 + (n + 1) = s.address n + 1 := rfl

theorem exec_storeRegs_of_lt {x : Reg} {s : State} (h : s.address x.val < Config.memSize) :
    exec (.storeRegs x) s =
      .next ((s.regsStored x).setI (BitVec.ofNat 16 (s.address (x.val + 1)))).next :=
  congrArg Host.Outcome.next (orRaise_of_none (storeBytes_error_of_le (by rwa [regValues_length])))

theorem exec_storeRegs_of_le {x : Reg} {s : State} (h : Config.memSize ≤ s.address x.val) :
    exec (.storeRegs x) s =
      .next ((s.regsStored x).raise (.outOfBoundsMemoryAccess (max (s.address 0) Config.memSize))
        (some (encode (.storeRegs x)))) := by
  have hlen := regValues_length s x
  refine congrArg Host.Outcome.next (orRaise_of_some (storeBytes_error_of_lt ?_ ?_))
  · exact List.ne_nil_of_length_eq_add_one hlen
  · rw [hlen, address_zero_add_succ]
    exact Nat.lt_succ_of_le h

theorem exec_storeRegs_memory {x : Reg} {s t : State} (h : exec (.storeRegs x) s = .next t) :
    t.memory = (s.regsStored x).memory := by
  cases h
  exact orRaise_memory rfl

/-- Rules R194, R195: past a transfer that stays in memory `I` does not wrap. -/
theorem address_succ_toNat {s : State} {x : Reg} (h : s.address x.val < 4096) :
    (BitVec.ofNat 16 (s.address (x.val + 1))).toNat = s.address (x.val + 1) := by
  have hsucc : s.address (x.val + 1) = s.address x.val + 1 := rfl
  rw [BitVec.toNat_ofNat]
  omega

/-- Settles O46: register `q` is the byte at `I + q` where that address exists, and `Fx55` writes nowhere else. -/
theorem bulkStoreStoresUpToVx : Obligations.BulkStoreStoresUpToVx := by
  intro x s hm
  obtain ⟨t, ht⟩ := exec_next (.storeRegs x) s
  have hmem := exec_storeRegs_memory ht
  have hlen := regValues_length s x
  refine ⟨t, ht, exec_memory_wf hm ht, exec_writesOnly ht, fun q hq hlt => ?stored, fun a ha => ?other,
    fun hlt => ?inside, fun hle => ?outside⟩
  case stored =>
    have hk : q.val < (s.regValues x).length := by
      rw [hlen]
      exact Nat.lt_succ_of_le hq
    rw [hmem, ← regValues_getElem hk]
    exact storeBytes_read_at hm hk hlt
  case other =>
    rw [hmem]
    refine storeBytes_read_of_ne hm fun k hk hlt => ?_
    rw [hlen] at hk
    exact ha ⟨k, by omega⟩ (Nat.le_of_lt_succ hk) hlt
  case inside =>
    rw [exec_storeRegs_of_lt hlt] at ht
    cases ht
    exact ⟨address_succ_toNat hlt, rfl, rfl⟩
  case outside =>
    rw [exec_storeRegs_of_le hle] at ht
    cases ht
    exact ⟨rfl, rfl, rfl⟩

/-! ### `Fx65` (rule R195) -/

/-- What the loads of `Fx65` leave. -/
def State.regsLoaded (s : State) (x : Reg) : State :=
  s.setRegs (loadBytes s.memory (s.address 0) (regsUpTo x) s.V).1

theorem exec_loadRegs_of_lt {x : Reg} {s : State} (h : s.address x.val < Config.memSize) :
    exec (.loadRegs x) s =
      .next ((s.regsLoaded x).setI (BitVec.ofNat 16 (s.address (x.val + 1)))).next :=
  congrArg Host.Outcome.next (orRaise_of_none (loadBytes_error_of_le (by rwa [regsUpTo_length])))

theorem exec_loadRegs_of_le {x : Reg} {s : State} (h : Config.memSize ≤ s.address x.val) :
    exec (.loadRegs x) s =
      .next ((s.regsLoaded x).raise (.outOfBoundsMemoryAccess (max (s.address 0) Config.memSize))
        (some (encode (.loadRegs x)))) := by
  have hlen := regsUpTo_length x
  refine congrArg Host.Outcome.next (orRaise_of_some (loadBytes_error_of_lt ?_ ?_))
  · exact List.ne_nil_of_length_eq_add_one hlen
  · rw [hlen, address_zero_add_succ]
    exact Nat.lt_succ_of_le h

/-- The registers hold what the loads left whether or not an address is missing. -/
theorem exec_loadRegs_reg {x : Reg} {s t : State} (h : exec (.loadRegs x) s = .next t) (q : Reg) :
    t.reg q = if q ≤ x ∧ s.address q.val < Config.memSize then s.memory.read (s.address q.val) else s.reg q := by
  have hV : t.V = (loadBytes s.memory (s.address 0) (regsUpTo x) s.V).1 := by
    cases h
    exact orRaise_V rfl
  rw [State.reg, hV, loadBytes_getElem (regsUpTo_nodup x)]
  simp only [mem_regsUpTo]
  by_cases hq : q ≤ x
  · rw [regsUpTo_idxOf hq]
    rfl
  · rw [if_neg (fun h => hq h.1), if_neg (fun h => hq h.1)]
    rfl

/-- Settles O47: register `q` holds the byte at `I + q` where that address exists, and every other its old value. -/
theorem bulkLoadLoadsUpToVx : Obligations.BulkLoadLoadsUpToVx := by
  intro x s
  obtain ⟨t, ht⟩ := exec_next (.loadRegs x) s
  refine ⟨t, ht, exec_writesOnly ht, exec_loadRegs_reg ht, fun hlt => ?inside, fun hle => ?outside⟩
  case inside =>
    rw [exec_loadRegs_of_lt hlt] at ht
    cases ht
    exact ⟨address_succ_toNat hlt, rfl, rfl⟩
  case outside =>
    rw [exec_loadRegs_of_le hle] at ht
    cases ht
    exact ⟨rfl, rfl, rfl⟩

end Sys2Proof.Machine

/-! PROOF. The decoder and the opcode table (rules R92 to R98): a word is the encoding of what it decodes to; the words that
select a row are the encodings of the instructions of that row's mnemonic; from these, which words are legal and what a step
does with one that is not. -/

namespace Sys2Proof

/-! ### A word that decodes is the encoding of its instruction (rules R92, R93, R98) -/

theorem encode_of_decodeAlu {w : Word16} {i : Instr} (hA : (nibbleA w).toNat = 0x8) (h : decodeAlu w = .ok i) :
    encode i = w ∧ i.wellFormed = true := by
  unfold decodeAlu at h
  split at h <;> cases h
  all_goals exact ⟨formatFXY_of_nibbles hA ‹_›, rfl⟩

theorem encode_of_decodeKey {w : Word16} {i : Instr} (hA : (nibbleA w).toNat = 0xE) (h : decodeKey w = .ok i) :
    encode i = w ∧ i.wellFormed = true := by
  unfold decodeKey at h
  split at h <;> cases h
  all_goals exact ⟨formatFXK_of_nibble_low hA ‹_›, rfl⟩

theorem encode_of_decodeMisc {w : Word16} {i : Instr} (hA : (nibbleA w).toNat = 0xF) (h : decodeMisc w = .ok i) :
    encode i = w ∧ i.wellFormed = true := by
  unfold decodeMisc at h
  split at h <;> cases h
  all_goals exact ⟨formatFXK_of_nibble_low hA ‹_›, rfl⟩

theorem encode_drw_of_nibble {w : Word16} (hA : (nibbleA w).toNat = 0xD) :
    encode (.drw (fieldX w) (fieldY w) (fieldN w)) = w := by
  have hn : (nibbleD w).toNat = (BitVec.ofNat 4 (fieldN w)).toNat := by
    rw [fieldN, BitVec.ofNat_toNat, BitVec.setWidth_eq]
  exact formatFXY_of_nibbles hA hn

/-- A sprite count read from its field is in range. -/
theorem wellFormed_drw_fieldN (x y : Reg) (w : Word16) : (Instr.drw x y (fieldN w)).wellFormed = true :=
  decide_eq_true (Nat.le_of_lt_succ (nibbleD w).isLt)

/-- The branches of the decoder's tree, family by family (`h_1` is family 0, `h_16` family F): each puts into the fields of the
word what the encoder takes from them. -/
theorem encode_of_decodeWord {w : Word16} {i : Instr} (h : decodeWord w = .ok i) :
    encode i = w ∧ i.wellFormed = true := by
  unfold decodeWord at h
  split at h
  case h_1 =>
    split_ifs at h with hcls hret <;> cases h
    · exact ⟨hcls.symm, rfl⟩
    · exact ⟨hret.symm, rfl⟩
  case h_2 hA | h_3 hA | h_11 hA | h_12 hA =>
    cases h
    exact ⟨formatFA_of_nibble hA, rfl⟩
  case h_4 hA | h_5 hA | h_7 hA | h_8 hA | h_13 hA =>
    cases h
    exact ⟨formatFXK_of_nibble hA, rfl⟩
  case h_6 hA | h_10 hA =>
    split at h <;> cases h
    exact ⟨formatFXY_of_nibbles hA ‹_›, rfl⟩
  case h_9 hA => exact encode_of_decodeAlu hA h
  case h_14 hA =>
    cases h
    exact ⟨encode_drw_of_nibble hA, wellFormed_drw_fieldN ..⟩
  case h_15 hA => exact encode_of_decodeKey hA h
  case h_16 =>
    have hA : (nibbleA w).toNat = 0xF := by
      have hlt := (nibbleA w).isLt
      simp only [imp_false] at *
      omega
    exact encode_of_decodeMisc hA h

/-- Settles O3: along the decoder's tree. -/
theorem encodeOfDecodeIsTheWord : Obligations.EncodeOfDecodeIsTheWord := fun _ _ => encode_of_decodeWord

/-! ### The rows of the opcode table (rules R94, R96) -/

/-- Any two rows differ in a bit that both masks fix. -/
theorem eq_of_pattern_and_mask_comm :
    ∀ p ∈ opcodeRows, ∀ q ∈ opcodeRows, p.pattern &&& q.mask = q.pattern &&& p.mask → p = q := by decide

/-- A word that selects two rows agrees with both patterns wherever both masks are set. -/
theorem pattern_and_mask_comm {w : Word16} {p q : OpcodeRow} (hp : p.selects w = true) (hq : q.selects w = true) :
    p.pattern &&& q.mask = q.pattern &&& p.mask := by
  rw [← of_decide_eq_true hp, ← of_decide_eq_true hq, BitVec.and_assoc, BitVec.and_assoc, BitVec.and_comm p.mask]

theorem eq_of_selects {w : Word16} {p q : OpcodeRow} (hp : p ∈ opcodeRows) (hq : q ∈ opcodeRows)
    (hpw : p.selects w = true) (hqw : q.selects w = true) : p = q :=
  eq_of_pattern_and_mask_comm p hp q hq (pattern_and_mask_comm hpw hqw)

/-- The constructors of `Instr` stand in the order of the rows: the encoding of an instruction selects the row in its place. -/
theorem exists_row_selects_encode (i : Instr) : ∃ p ∈ opcodeRows, p.selects (encode i) = true := by
  have hlt : i.ctorIdx < opcodeRows.length := by cases i <;> exact Nat.le_of_ble_eq_true rfl
  refine ⟨opcodeRows[i.ctorIdx], List.getElem_mem hlt, decide_eq_true ?_⟩
  cases i
  case cls | ret => exact BitVec.and_allOnes
  case jp | call | ldI | jpV0 => exact formatFA_and_family ..
  case seImm | sneImm | ldImm | addImm | rnd => exact formatFXK_and_family ..
  case drw => exact formatFXY_and_family ..
  case seReg | sneReg | ldReg | orReg | andReg | xorReg | addReg | subReg | shr | subnReg | shl =>
    exact formatFXY_and_low ..
  case skp | sknp | ldVxDT | ldVxK | ldDTVx | ldSTVx | addI | ldF | ldB | storeRegs | loadRegs =>
    exact formatFXK_and_low ..

/-! ### A word from the row it selects (rules R93, R94) -/

theorem formatFA_of_and_family {w : Word16} {a : BitVec 4} (h : w &&& 0xF000#16 = formatFXK a 0 0) :
    formatFA a (fieldNNN w) = w :=
  formatFA_of_nibble (nibbleA_of_and_family a h)

theorem formatFXK_of_and_family {w : Word16} {a : BitVec 4} (h : w &&& 0xF000#16 = formatFXK a 0 0) :
    formatFXK a (fieldX w) (fieldKK w) = w :=
  formatFXK_of_nibble (nibbleA_of_and_family a h)

theorem formatFXK_of_and_low {w : Word16} {a : BitVec 4} {k : Byte} (h : w &&& 0xF0FF#16 = formatFXK a 0 k) :
    formatFXK a (fieldX w) k = w :=
  have ⟨hA, hK⟩ := nibbleA_fieldKK_of_and_low a k h
  formatFXK_of_nibble_low hA hK

theorem formatFXY_of_and_low {w : Word16} {a d : BitVec 4} (h : w &&& 0xF00F#16 = formatFXY a 0 0 d) :
    formatFXY a (fieldX w) (fieldY w) d = w :=
  have ⟨hA, hD⟩ := nibbleA_nibbleD_of_and_low a d h
  formatFXY_of_nibbles hA hD

/-- Row by row: the instruction whose operands are the fields of a word that selects the row. -/
theorem exists_encode_eq_of_and_mask (w : Word16) : ∀ p ∈ opcodeRows, w &&& p.mask = p.pattern →
    ∃ i : Instr, encode i = w ∧ i.wellFormed = true ∧ i.mnemonic = p.mnemonic := by
  simp only [opcodeRows, List.cons_append, List.nil_append, List.forall_mem_cons, List.not_mem_nil,
    false_imp_iff, implies_true, and_true]
  exact ⟨
    fun h => ⟨.cls, h.symm.trans BitVec.and_allOnes, rfl, rfl⟩,
    fun h => ⟨.ret, h.symm.trans BitVec.and_allOnes, rfl, rfl⟩,
    fun h => ⟨.jp (fieldNNN w), formatFA_of_and_family h, rfl, rfl⟩,
    fun h => ⟨.call (fieldNNN w), formatFA_of_and_family h, rfl, rfl⟩,
    fun h => ⟨.seImm (fieldX w) (fieldKK w), formatFXK_of_and_family h, rfl, rfl⟩,
    fun h => ⟨.sneImm (fieldX w) (fieldKK w), formatFXK_of_and_family h, rfl, rfl⟩,
    fun h => ⟨.seReg (fieldX w) (fieldY w), formatFXY_of_and_low h, rfl, rfl⟩,
    fun h => ⟨.ldImm (fieldX w) (fieldKK w), formatFXK_of_and_family h, rfl, rfl⟩,
    fun h => ⟨.addImm (fieldX w) (fieldKK w), formatFXK_of_and_family h, rfl, rfl⟩,
    fun h => ⟨.ldReg (fieldX w) (fieldY w), formatFXY_of_and_low h, rfl, rfl⟩,
    fun h => ⟨.orReg (fieldX w) (fieldY w), formatFXY_of_and_low h, rfl, rfl⟩,
    fun h => ⟨.andReg (fieldX w) (fieldY w), formatFXY_of_and_low h, rfl, rfl⟩,
    fun h => ⟨.xorReg (fieldX w) (fieldY w), formatFXY_of_and_low h, rfl, rfl⟩,
    fun h => ⟨.addReg (fieldX w) (fieldY w), formatFXY_of_and_low h, rfl, rfl⟩,
    fun h => ⟨.subReg (fieldX w) (fieldY w), formatFXY_of_and_low h, rfl, rfl⟩,
    fun h => ⟨.shr (fieldX w) (fieldY w), formatFXY_of_and_low h, rfl, rfl⟩,
    fun h => ⟨.subnReg (fieldX w) (fieldY w), formatFXY_of_and_low h, rfl, rfl⟩,
    fun h => ⟨.shl (fieldX w) (fieldY w), formatFXY_of_and_low h, rfl, rfl⟩,
    fun h => ⟨.sneReg (fieldX w) (fieldY w), formatFXY_of_and_low h, rfl, rfl⟩,
    fun h => ⟨.ldI (fieldNNN w), formatFA_of_and_family h, rfl, rfl⟩,
    fun h => ⟨.jpV0 (fieldNNN w), formatFA_of_and_family h, rfl, rfl⟩,
    fun h => ⟨.rnd (fieldX w) (fieldKK w), formatFXK_of_and_family h, rfl, rfl⟩,
    fun h => ⟨.drw (fieldX w) (fieldY w) (fieldN w), encode_drw_of_nibble (nibbleA_of_and_family 0xD h),
      wellFormed_drw_fieldN .., rfl⟩,
    fun h => ⟨.skp (fieldX w), formatFXK_of_and_low h, rfl, rfl⟩,
    fun h => ⟨.sknp (fieldX w), formatFXK_of_and_low h, rfl, rfl⟩,
    fun h => ⟨.ldVxDT (fieldX w), formatFXK_of_and_low h, rfl, rfl⟩,
    fun h => ⟨.ldVxK (fieldX w), formatFXK_of_and_low h, rfl, rfl⟩,
    fun h => ⟨.ldDTVx (fieldX w), formatFXK_of_and_low h, rfl, rfl⟩,
    fun h => ⟨.ldSTVx (fieldX w), formatFXK_of_and_low h, rfl, rfl⟩,
    fun h => ⟨.addI (fieldX w), formatFXK_of_and_low h, rfl, rfl⟩,
    fun h => ⟨.ldF (fieldX w), formatFXK_of_and_low h, rfl, rfl⟩,
    fun h => ⟨.ldB (fieldX w), formatFXK_of_and_low h, rfl, rfl⟩,
    fun h => ⟨.storeRegs (fieldX w), formatFXK_of_and_low h, rfl, rfl⟩,
    fun h => ⟨.loadRegs (fieldX w), formatFXK_of_and_low h, rfl, rfl⟩⟩

/-! ### Which words are legal (rules R94, R97) -/

theorem decodeWord_of_selects {w : Word16} {p : OpcodeRow} (hp : p ∈ opcodeRows) (h : p.selects w = true) :
    ∃ i, decodeWord w = .ok i ∧ i.mnemonic = p.mnemonic := by
  obtain ⟨i, rfl, hwf, hm⟩ := exists_encode_eq_of_and_mask w p hp (of_decide_eq_true h)
  exact ⟨i, decodeWord_encode hwf, hm⟩

/-- A word that decoded would be the encoding of an instruction, which selects a row. -/
theorem decodeWord_of_not_selects {w : Word16} (h : ∀ p ∈ opcodeRows, p.selects w = false) :
    decodeWord w = .error (.illegal w) := by
  cases hd : decodeWord w with
  | error e => rw [decodeWord_error hd]
  | ok i =>
    obtain ⟨p, hp, hs⟩ := exists_row_selects_encode i
    rw [(encode_of_decodeWord hd).1, h p hp] at hs
    cases hs

/-- Settles O4: rows are apart, a selecting word is the encoding of its row's instruction, and only such words decode. -/
theorem legalWordsAreThoseOfTheOpcodeTable : Obligations.LegalWordsAreThoseOfTheOpcodeTable :=
  ⟨fun _ _ _ => eq_of_selects, fun _ _ => decodeWord_of_selects, fun _ => decodeWord_of_not_selects⟩

/-- Settles O1: the decoder run on each of the words. -/
theorem writtenOutWordsDecode : Obligations.WrittenOutWordsDecode := by
  unfold Obligations.WrittenOutWordsDecode
  decide

end Sys2Proof

namespace Sys2Proof.Machine

/-! ### The step at an illegal word (rules R97, R123, R275) -/

/-- A live machine that fetches an illegal word records it. -/
theorem step_of_illegal {s : State} {w : Word16} (hl : s.Live) (hh : s.haltsHere = false) (hf : s.fetch = .ok w)
    (hd : decodeWord w = .error (.illegal w)) :
    step s = .next { s.initialized with fault := some ⟨.illegalInstruction w, s.pc, some w⟩ } := by
  have hpc : s.initialized.pc = s.pc := by rw [initialized_eq]; rfl
  rw [step_of_live hl, loopStep_of_not_halts hh, scheduledStep_of_illegal ((initialized_fetch s).trans hf) hd, ← hpc]
  rfl

/-- Settles O8: a word that selects no row is illegal. -/
theorem illegalWordIsFatal : Obligations.IllegalWordIsFatal :=
  fun _ _ hl hh hf hn => step_of_illegal hl hh hf (decodeWord_of_not_selects hn)

end Sys2Proof.Machine

/-! PROOF. The step cycle (rules R120 to R126): a step runs the instruction fetched, and an instruction issues at most
one capability transaction. -/

namespace Sys2Proof.Machine

/-! ### The step of a live machine (rules R120, R125) -/

/-- Settles O5: the move of the loop is the scheduled step, and no instruction faults or refuses. -/
theorem stepRunsTheDecodedInstruction : Obligations.StepRunsTheDecodedInstruction := by
  intro s w i hl hh hf hd
  obtain ⟨t, ht⟩ := exec_next i s.initialized
  rw [step_of_live hl, loopStep_of_not_halts hh, scheduledStep_of_exec ((initialized_fetch s).trans hf) hd ht, ht]

/-! ### Input transactions (rules R251, R256 to R259) -/

/-- The instructions that answer an input: `Cxkk`, `Fx0A`, and `Ex9E` and `ExA1` where `V[x]` is a key (decision D9). -/
def AnswersInput (i : Instr) (s : State) : Prop :=
  (∃ x kk, i = .rnd x kk) ∨ (∃ x, i = .ldVxK x) ∨ ∃ x, (i = .skp x ∨ i = .sknp x) ∧ (s.reg x).toNat ≤ 15

/-- Rule R210: the test of a key is one transaction. -/
theorem keyQueried_of_le {s : State} {v : Byte} (h : v.toNat ≤ 15) : s.keyQueried v = s.answered := by
  have hk : keyOf v = some ⟨v.toNat, Nat.lt_succ_of_le h⟩ := keyOf_of_eq rfl
  rw [State.keyQueried, hk]

/-- Decision D9: the test of a value above 15 is none. -/
theorem keyQueried_of_lt {s : State} {v : Byte} (h : 15 < v.toNat) : s.keyQueried v = s := by
  rw [State.keyQueried, keyOf_of_lt h]

theorem exec_of_answersInput {i : Instr} {s t : State} (h : exec i s = .next t) (hi : AnswersInput i s) :
    t.inputs = s.inputs + 1 ∧ t.display = s.display := by
  obtain ⟨x, kk, rfl⟩ | ⟨x, rfl⟩ | ⟨x, rfl | rfl, hx⟩ := hi
  case inl =>
    cases h
    exact ⟨rfl, rfl⟩
  case inr.inl =>
    obtain rfl | ⟨k, -, rfl⟩ | ⟨k, -, rfl⟩ := exec_ldVxK_cases h <;> exact ⟨rfl, rfl⟩
  all_goals
    cases h
    rw [keyQueried_of_le hx]
    exact ⟨rfl, rfl⟩

/-- Of the writers of the count, only a key test of a value above 15 answers no input. -/
theorem inputs_of_not_answersInput {i : Instr} {s t : State} (h : exec i s = .next t) (hi : ¬AnswersInput i s) :
    t.inputs = s.inputs := by
  by_contra hne
  obtain ⟨x, rfl | rfl | rfl⟩ | ⟨x, kk, rfl⟩ := inputs_writer h hne
  case inl.inr.inr => exact hi (.inr (.inl ⟨x, rfl⟩))
  case inr => exact hi (.inl ⟨x, kk, rfl⟩)
  all_goals
    have hx : 15 < (s.reg x).toNat := Nat.lt_of_not_le fun hx => hi (.inr (.inr ⟨x, by simp, hx⟩))
    cases h
    rw [keyQueried_of_lt hx] at hne
    exact hne rfl

theorem exec_inputs_iff {i : Instr} {s t : State} (h : exec i s = .next t) :
    t.inputs = s.inputs + 1 ↔ AnswersInput i s := by
  refine ⟨fun ht => ?_, fun hi => (exec_of_answersInput h hi).1⟩
  by_contra hi
  rw [inputs_of_not_answersInput h hi] at ht
  omega

/-! ### Display transactions (rules R251, R253, R254) -/

/-- The bytes of reads that succeed are those at ascending addresses. -/
theorem eq_of_readBytes {m : Memory} {a n : Nat} {rows : List Byte} (h : readBytes m a n = .ok rows) :
    rows = (List.range n).map fun k => m.read (a + k) := by
  by_cases hn : n = 0 ∨ a + n ≤ Config.memSize
  · rw [readBytes_of_le hn] at h
    exact (Except.ok.inj h).symm
  · obtain ⟨hn, hlt⟩ := not_or.mp hn
    rw [readBytes_of_lt hn (Nat.lt_of_not_le hlt)] at h
    cases h

/-- Rule R200: `00E0` is one `clear`. -/
theorem exec_cls_display {s t : State} (h : exec .cls s = .next t) : t.display = s.display.clear := by
  cases h
  rfl

/-- Rule R201: `Dxyn` ends in a fatal error before it draws, or is one `draw_sprite` of the `n` bytes from `I`. -/
theorem exec_drw_display {s t : State} {x y : Reg} {n : Nat} (h : exec (.drw x y n) s = .next t) :
    t.display = s.display ∨ ∃ rows : List Byte, rows.length = n ∧
      (∀ k (hk : k < rows.length), rows[k] = s.memory.read (s.address k)) ∧
      t.display = (s.display.drawSprite (s.reg x) (s.reg y) rows).1 := by
  cases hr : readBytes s.memory (s.address 0) n with
  | error e =>
    rw [exec_drw_of_error x y hr] at h
    cases h
    exact .inl rfl
  | ok rows =>
    rw [exec_drw_of_ok x y hr] at h
    cases h
    cases eq_of_readBytes hr
    exact .inr ⟨_, by simp, fun k hk => by simp [State.address], rfl⟩

/-- Settles O23: an instruction that answers an input leaves the display; of the others only `00E0` and `Dxyn` change it. -/
theorem anInstructionIssuesAtMostOneTransaction : Obligations.AnInstructionIssuesAtMostOneTransaction := by
  intro i s
  obtain ⟨t, ht⟩ := exec_next i s
  refine ⟨t, ht, ?transaction, exec_inputs_iff ht, ?clear⟩
  case clear =>
    rintro rfl
    exact exec_cls_display ht
  case transaction =>
    by_cases hi : AnswersInput i s
    · exact .inr (.inl (exec_of_answersInput ht hi))
    · have hin := inputs_of_not_answersInput ht hi
      by_cases hd : t.display = s.display
      · exact .inl ⟨hin, hd⟩
      · obtain rfl | ⟨x, y, n, rfl⟩ := display_writer ht hd
        · exact .inr (.inr (.inl ⟨hin, rfl, exec_cls_display ht⟩))
        · obtain ⟨rows, hdraw⟩ := (exec_drw_display ht).resolve_left hd
          exact .inr (.inr (.inr ⟨hin, x, y, n, rows, rfl, hdraw⟩))

end Sys2Proof.Machine

/-! PROOF. The two jumps (rules R141, R143): the word of each, the address each leaves in `pc`, and the fetch after a jump whose
target leaves no room for a word. -/

namespace Sys2Proof.Machine

/-! ### The words of the jumps and the fetch at their target (rules R92, R121) -/

/-- Rule R92: a number with the family digit 1 is the word of a jump. -/
theorem decodeWord_jp (nnn : BitVec 12) : decodeWord (BitVec.ofNat 16 (0x1000 + nnn.toNat)) = .ok (.jp nnn) :=
  (congrArg decodeWord (ofNat_eq_formatFA 0x1 nnn)).trans (decodeWord_encode (i := .jp nnn) rfl)

/-- Rule R92: a number with the family digit B is the word of a jump by `V[0]`; the second digit belongs to the address. -/
theorem decodeWord_jpV0 (nnn : BitVec 12) : decodeWord (BitVec.ofNat 16 (0xB000 + nnn.toNat)) = .ok (.jpV0 nnn) :=
  (congrArg decodeWord (ofNat_eq_formatFA 0xB nnn)).trans (decodeWord_encode (i := .jpV0 nnn) rfl)

/-- From the last address of memory on, the fetch reports the first of its two addresses that does not exist. -/
theorem fetch_of_pc_toNat {s : State} {a : Nat} (hpc : s.pc.toNat = a) (h : 0xFFF ≤ a) :
    s.fetch = .error (.outOfBoundsMemoryAccess (max a 4096)) := by
  subst hpc
  exact fetch_of_le (Nat.succ_le_succ h)

/-! ### The jumps -/

/-- Settles O32: the target is the widened address, and at 0xFFF the second byte of the fetch is the one missing. -/
theorem jpGoesToItsAddress : Obligations.JpGoesToItsAddress := by
  refine fun nnn s => ⟨decodeWord_jp nnn, s.setPc (zext16 nnn), rfl, zext16_toNat nnn, rfl, fun hlast => ?_⟩
  exact fetch_of_pc_toNat ((zext16_toNat nnn).trans hlast) (Nat.le_refl _)

/-- Settles O35: the target is the sum as a number, which fits `pc`, and the fetch there fails from 0xFFF on. -/
theorem jpV0AddsRegisterZero : Obligations.JpV0AddsRegisterZero := by
  refine fun nnn s => ⟨decodeWord_jpV0 nnn, s.setPc (s.offsetTarget nnn), rfl, ?_, rfl, fun hout => ?_⟩
  · exact offsetTarget_toNat s nnn
  · exact fetch_of_pc_toNat (offsetTarget_toNat s nnn) hout

end Sys2Proof.Machine

/-! PROOF. The four register skips (rules R150 to R153): their words, the illegal words of the families 5 and 9, and a skip whose
condition compares two bytes. -/

namespace Sys2Proof.Machine

/-! ### The words of the skips (rules R92, R94, R97) -/

/-- Rule R150: a number with the family digit 3 is the word of the skip on an equal immediate. -/
theorem decodeWord_seImm (x : Reg) (kk : Byte) :
    decodeWord (BitVec.ofNat 16 (0x3000 + 0x100 * x.val + kk.toNat)) = .ok (.seImm x kk) :=
  (congrArg decodeWord (ofNat_eq_formatFXK 0x3 x kk)).trans (decodeWord_encode (i := .seImm x kk) rfl)

/-- Rule R151: the family digit 4 is that of the skip on an unequal immediate. -/
theorem decodeWord_sneImm (x : Reg) (kk : Byte) :
    decodeWord (BitVec.ofNat 16 (0x4000 + 0x100 * x.val + kk.toNat)) = .ok (.sneImm x kk) :=
  (congrArg decodeWord (ofNat_eq_formatFXK 0x4 x kk)).trans (decodeWord_encode (i := .sneImm x kk) rfl)

/-- Rule R152: the family digit 5 with low digit 0 is the word of the skip on equal registers. -/
theorem decodeWord_seReg (x y : Reg) :
    decodeWord (BitVec.ofNat 16 (0x5000 + 0x100 * x.val + 0x10 * y.val)) = .ok (.seReg x y) :=
  (congrArg decodeWord (ofNat_eq_formatFXY 0x5 x y 0x0)).trans (decodeWord_encode (i := .seReg x y) rfl)

/-- Rule R153: the family digit 9 with low digit 0 is the word of the skip on unequal registers. -/
theorem decodeWord_sneReg (x y : Reg) :
    decodeWord (BitVec.ofNat 16 (0x9000 + 0x100 * x.val + 0x10 * y.val)) = .ok (.sneReg x y) :=
  (congrArg decodeWord (ofNat_eq_formatFXY 0x9 x y 0x0)).trans (decodeWord_encode (i := .sneReg x y) rfl)

/-- Rule R97: no row of the families 5 and 9 has a low digit other than 0. -/
theorem decodeWord_of_nibbleD_ne_zero {w : Word16} (hA : (nibbleA w).toNat = 0x5 ∨ (nibbleA w).toNat = 0x9)
    (hD : (nibbleD w).toNat ≠ 0) : decodeWord w = .error (.illegal w) := by
  rcases hA with hA | hA
  · simp only [decodeWord, hA, if_neg hD]
  · simp only [decodeWord, hA, if_neg hD]

/-! ### A skip on the comparison of two bytes (rules R150 to R153) -/

theorem skipIf_eq (s : State) (p q : Byte) :
    s.skipIf (decide (p = q)) = { s with pc := if p.toNat = q.toNat then s.pc + 4 else s.pc + 2 } := by
  simp only [State.skipIf, State.setPc, decide_eq_true_eq, BitVec.toNat_inj]

theorem skipIf_ne (s : State) (p q : Byte) :
    s.skipIf (decide (p ≠ q)) = { s with pc := if p.toNat = q.toNat then s.pc + 2 else s.pc + 4 } := by
  simp only [State.skipIf, State.setPc, decide_eq_true_eq, ite_not, BitVec.toNat_inj]

/-- Settles O36: each word is the encoding of its skip, each skip compares two bytes, and a low digit other than 0 is no row's. -/
theorem registerSkipsAdvanceByFourOrTwo : Obligations.RegisterSkipsAdvanceByFourOrTwo := by
  refine fun x y kk s => ⟨⟨decodeWord_seImm x kk, congrArg _ (skipIf_eq s (s.reg x) kk)⟩,
    ⟨decodeWord_sneImm x kk, congrArg _ (skipIf_ne s (s.reg x) kk)⟩,
    ⟨decodeWord_seReg x y, congrArg _ (skipIf_eq s (s.reg x) (s.reg y))⟩,
    ⟨decodeWord_sneReg x y, congrArg _ (skipIf_ne s (s.reg x) (s.reg y))⟩, fun d hlo hhi w hw => ?illegal⟩
  case illegal =>
    have hA : (nibbleA w).toNat = 0x5 ∨ (nibbleA w).toNat = 0x9 := by rw [nibbleA_toNat]; omega
    have hD : (nibbleD w).toNat ≠ 0 := by rw [nibbleD_toNat]; omega
    exact decodeWord_of_nibbleD_ne_zero hA hD

end Sys2Proof.Machine

/-! PROOF. The two immediates (rules R160, R161): their words, and the write of one register with no flag that ends both. -/

namespace Sys2Proof.Machine

/-! ### The words of the immediates (rule R92) -/

/-- Rule R160: a number with the family digit 6 is the word of the load of an immediate. -/
theorem decodeWord_ldImm (x : Reg) (kk : Byte) :
    decodeWord (BitVec.ofNat 16 (0x6000 + 0x100 * x.val + kk.toNat)) = .ok (.ldImm x kk) :=
  (congrArg decodeWord (ofNat_eq_formatFXK 0x6 x kk)).trans (decodeWord_encode (i := .ldImm x kk) rfl)

/-- Rule R161: the family digit 7 is that of the addition of an immediate. -/
theorem decodeWord_addImm (x : Reg) (kk : Byte) :
    decodeWord (BitVec.ofNat 16 (0x7000 + 0x100 * x.val + kk.toNat)) = .ok (.addImm x kk) :=
  (congrArg decodeWord (ofNat_eq_formatFXK 0x7 x kk)).trans (decodeWord_encode (i := .addImm x kk) rfl)

/-! ### A plain destination: one register is written and no flag (rules R22, R160, R161) -/

theorem setReg_next_reg_self (s : State) (x : Reg) (v : Byte) : (s.setReg x v).next.reg x = v := by
  rw [next_reg, setReg_reg, if_pos rfl]

/-- `VF` is no exception: it is written only as the destination. -/
theorem setReg_next_reg_of_ne {s : State} {x q : Reg} (v : Byte) (h : q ≠ x) : (s.setReg x v).next.reg q = s.reg q := by
  rw [next_reg, setReg_reg, if_neg h]

/-- Settles O37: both instructions end in the write of a plain destination, and the 8-bit sum wraps at 256. -/
theorem immediatesLoadAndAddWithoutFlag : Obligations.ImmediatesLoadAndAddWithoutFlag := by
  refine fun x kk s => ⟨decodeWord_ldImm x kk, decodeWord_addImm x kk,
    ⟨(s.setReg x kk).next, rfl, setReg_next_reg_self s x kk, fun _ => setReg_next_reg_of_ne kk, rfl, rfl⟩,
    ⟨(s.setReg x (s.reg x + kk)).next, rfl, ?sum, fun _ => setReg_next_reg_of_ne (s.reg x + kk), rfl, rfl⟩⟩
  case sum =>
    rw [setReg_next_reg_self, BitVec.toNat_add]

end Sys2Proof.Machine

/-! PROOF. The assignment, the logic operations, the addition and the subtractions of the family `8xyN` (rules R170 to R175,
R177): each meaning as one write, the carry and the not-borrow as numbers, and from these the statements. The shared write of
result and flag is `setResultFlag_effect`. -/

namespace Sys2Proof.Machine

/-! ### The assignment (rule R170) -/

/-- Rule R170: the family digit 8 with low digit 0 is the word of the copy. -/
theorem decodeWord_ldReg (x y : Reg) :
    decodeWord (BitVec.ofNat 16 (0x8000 + 0x100 * x.val + 0x10 * y.val)) = .ok (.ldReg x y) :=
  (congrArg decodeWord (ofNat_eq_formatFXY 0x8 x y 0x0)).trans (decodeWord_encode (i := .ldReg x y) rfl)

/-- Settles O38: the copy is the write of a plain destination, so not even `VF` changes beside it. -/
theorem ldRegCopiesWithoutFlag : Obligations.LdRegCopiesWithoutFlag := by
  refine fun x y s => ⟨decodeWord_ldReg x y, (s.setReg x (s.reg y)).next, rfl, ?copy, fun q hq => ?other, rfl, rfl⟩
  case copy => exact setReg_next_reg_self s x (s.reg y)
  case other => exact setReg_next_reg_of_ne (s.reg y) hq

/-! ### The logic operations (rules R171 to R173) -/

theorem exec_orReg (x y : Reg) (s : State) :
    exec (.orReg x y) s = .next (s.setResultFlag x (s.reg x ||| s.reg y) logicFlag) := rfl

theorem exec_andReg (x y : Reg) (s : State) :
    exec (.andReg x y) s = .next (s.setResultFlag x (s.reg x &&& s.reg y) logicFlag) := rfl

theorem exec_xorReg (x y : Reg) (s : State) :
    exec (.xorReg x y) s = .next (s.setResultFlag x (s.reg x ^^^ s.reg y) logicFlag) := rfl

/-- Settles O39: each of the three writes a byte that is `op` bit by bit, and then the flag 0. -/
theorem logicOperationsResetTheFlag : Obligations.LogicOperationsResetTheFlag := by
  intro x y s i op hi
  have hexec : ∃ v : Byte, exec i s = .next (s.setResultFlag x v logicFlag) ∧
      ∀ b, v.getLsbD b = op ((s.reg x).getLsbD b) ((s.reg y).getLsbD b) := by
    rcases hi with ⟨rfl, rfl⟩ | ⟨rfl, rfl⟩ | ⟨rfl, rfl⟩
    · exact ⟨_, exec_orReg x y s, fun _ => BitVec.getLsbD_or⟩
    · exact ⟨_, exec_andReg x y s, fun _ => BitVec.getLsbD_and⟩
    · exact ⟨_, exec_xorReg x y s, fun _ => BitVec.getLsbD_xor⟩
  obtain ⟨v, hnext, hbits⟩ := hexec
  obtain ⟨hflag, hresult, hframe⟩ := setResultFlag_effect s x v logicFlag
  refine ⟨_, hnext, hflag, fun hx b _ => ?_, hframe⟩
  rw [hresult hx, hbits]

/-! ### The addition (rule R174) -/

theorem exec_addReg (x y : Reg) (s : State) :
    exec (.addReg x y) s = .next (s.setResultFlag x (s.reg x + s.reg y) (carryFlag (s.reg x) (s.reg y))) := rfl

/-- A flag given by a condition is 1 where it holds and 0 elsewhere. -/
theorem flagByte_decide_toNat (P : Prop) [Decidable P] : (flagByte (decide P)).toNat = if P then 1 else 0 := by
  rw [flagByte_toNat, Bool.toNat, Bool.cond_decide]

theorem carryFlag_toNat (p q : Byte) : (carryFlag p q).toNat = if 255 < p.toNat + q.toNat then 1 else 0 :=
  flagByte_decide_toNat _

/-- Settles O40: the byte written is the sum of the two registers, without the old `VF`, and the flag is its carry. -/
theorem addRegStoresSumAndCarry : Obligations.AddRegStoresSumAndCarry := by
  intro x y s
  obtain ⟨hflag, hresult, hframe⟩ :=
    setResultFlag_effect s x (s.reg x + s.reg y) (carryFlag (s.reg x) (s.reg y))
  refine ⟨_, exec_addReg x y s, ?_, fun hx => ?_, hframe⟩
  · rw [hflag, carryFlag_toNat]
  · rw [hresult hx, BitVec.toNat_add]

/-! ### The subtractions (rules R175, R177) -/

theorem exec_subReg (x y : Reg) (s : State) :
    exec (.subReg x y) s = .next (s.setResultFlag x (s.reg x - s.reg y) (notBorrowFlag (s.reg x) (s.reg y))) := rfl

theorem exec_subnReg (x y : Reg) (s : State) :
    exec (.subnReg x y) s = .next (s.setResultFlag x (s.reg y - s.reg x) (notBorrowFlag (s.reg y) (s.reg x))) := rfl

theorem notBorrowFlag_toNat (p q : Byte) : (notBorrowFlag p q).toNat = if q.toNat ≤ p.toNat then 1 else 0 :=
  flagByte_decide_toNat _

/-- Rule R179: a difference of bytes borrows 256 exactly where the subtrahend exceeds the minuend. -/
theorem byte_sub_toNat (p q : Byte) :
    (p - q).toNat = if q.toNat ≤ p.toNat then p.toNat - q.toNat else p.toNat + 256 - q.toNat := by
  split
  case isTrue h => exact BitVec.toNat_sub_of_le h
  case isFalse h =>
    rw [BitVec.toNat_sub]
    omega

/-- Settles O41: `8xy5` and `8xy7` write the difference of the same two bytes in the two orders, and its not-borrow. -/
theorem subtractionsStoreDifferenceAndNotBorrow : Obligations.SubtractionsStoreDifferenceAndNotBorrow := by
  intro x y s i minuend subtrahend hi
  have hexec : ∃ p q : Byte, exec i s = .next (s.setResultFlag x (p - q) (notBorrowFlag p q)) ∧
      minuend = p.toNat ∧ subtrahend = q.toNat := by
    rcases hi with ⟨rfl, hm, hs⟩ | ⟨rfl, hm, hs⟩
    · exact ⟨s.reg x, s.reg y, exec_subReg x y s, hm, hs⟩
    · exact ⟨s.reg y, s.reg x, exec_subnReg x y s, hm, hs⟩
  obtain ⟨p, q, hnext, rfl, rfl⟩ := hexec
  obtain ⟨hflag, hresult, hframe⟩ := setResultFlag_effect s x (p - q) (notBorrowFlag p q)
  refine ⟨_, hnext, ?_, fun hx => ?_, hframe⟩
  · rw [hflag, notBorrowFlag_toNat]
  · rw [hresult hx, byte_sub_toNat]

end Sys2Proof.Machine

/-! PROOF. Two statements about the address register and the memory it points into: the immediate load of `I` (rule R190), and a
bulk store followed by a bulk load from the same base (rules R194, R195), which rests on what each of the two does alone. -/

namespace Sys2Proof.Machine

/-! ### Store and load from one base (rules R194, R195) -/

/-- The addresses of a transfer ascend, so all of them exist when the last one does. -/
theorem address_lt_of_le {x q : Reg} {s : State} (hq : q ≤ x) (h : s.address x.val < 4096) : s.address q.val < 4096 :=
  Nat.lt_of_le_of_lt (Nat.add_le_add_left hq s.I.toNat) h

/-- Settles O48: `Fx65` reads at `I + q` the byte `Fx55` left there, which is register `q`, and both advance `I` alike. -/
theorem bulkStoreThenLoadRestoresRegisters : Obligations.BulkStoreThenLoadRestoresRegisters := by
  intro x s W a hm hlt
  obtain ⟨t, ht, -, -, hstored, -, htI, -⟩ := bulkStoreStoresUpToVx x s hm
  obtain ⟨u, hu, -, hloaded, huI, -⟩ := bulkLoadLoadsUpToVx x { t with V := W, I := s.I, pc := a }
  obtain ⟨htI, -⟩ := htI hlt
  obtain ⟨huI, -⟩ := huI hlt
  refine ⟨t, ht, htI, u, hu, BitVec.eq_of_toNat_eq (huI.trans htI.symm), fun q => ?_⟩
  rw [hloaded]
  by_cases hq : q ≤ x
  · have hqlt := address_lt_of_le hq hlt
    rw [if_pos ⟨hq, hqlt⟩, if_pos hq]
    exact hstored q hq hqlt
  · rw [if_neg (fun h => hq h.1), if_neg hq]
    rfl

/-! ### The immediate load of `I` (rule R190) -/

/-- Rule R92: a number with the family digit A is the word of a load of `I`. -/
theorem decodeWord_ldI (nnn : BitVec 12) : decodeWord (BitVec.ofNat 16 (0xA000 + nnn.toNat)) = .ok (.ldI nnn) :=
  (congrArg decodeWord (ofNat_eq_formatFA 0xA nnn)).trans (decodeWord_encode (i := .ldI nnn) rfl)

/-- Settles O43: `I` receives the widened address, which is `nnn` as a number, and nothing else but `pc` is written. -/
theorem ldILoadsTheAddressRegister : Obligations.LdILoadsTheAddressRegister :=
  fun nnn s => ⟨decodeWord_ldI nnn, (s.setI (zext16 nnn)).next, rfl, zext16_toNat nnn, rfl, rfl⟩

end Sys2Proof.Machine

/-! PROOF. The display instructions `00E0` and `Dxyn` (rules R200, R201): what `draw_sprite` does to each pixel in terms of the
pixels a sprite covers (rule R254), drawing on a blank grid and drawing twice, and the clear and the draw as instructions. -/

namespace Sys2Proof.Machine

/-! ### One transaction `draw_sprite` (rule R254) -/

/-- Rule R254: the pixels a sprite covers are inverted, all others kept, and there is a collision exactly when a covered pixel
was on. -/
theorem drawSprite_spec (d : Display) (x y : Byte) {rows : List Byte} (hl : rows.length ≤ 15) :
    (∀ c r, (SpriteCovers x y rows c r → (d.drawSprite x y rows).1.pixels.pixel c r = !d.pixels.pixel c r) ∧
      (¬SpriteCovers x y rows c r → (d.drawSprite x y rows).1.pixels.pixel c r = d.pixels.pixel c r)) ∧
    ((d.drawSprite x y rows).2 = true ↔ ∃ c r, SpriteCovers x y rows c r ∧ d.pixels.pixel c r = true) := by
  obtain ⟨hpixel, hcollision⟩ := drawRows_spec x.toNat rows y.toNat ⟨d.pixels, false⟩ (hl.trans (by decide))
  exact ⟨hpixel, hcollision.trans (or_iff_right Bool.false_ne_true)⟩

theorem drawSprite_pixel_of_covers {d : Display} {x y : Byte} {rows : List Byte} {c : Fin 64} {r : Fin 32}
    (hl : rows.length ≤ 15) (h : SpriteCovers x y rows c r) :
    (d.drawSprite x y rows).1.pixels.pixel c r = !d.pixels.pixel c r :=
  have ⟨hpixel, _⟩ := drawSprite_spec d x y hl
  (hpixel c r).1 h

theorem drawSprite_pixel_of_not_covers {d : Display} {x y : Byte} {rows : List Byte} {c : Fin 64} {r : Fin 32}
    (hl : rows.length ≤ 15) (h : ¬SpriteCovers x y rows c r) :
    (d.drawSprite x y rows).1.pixels.pixel c r = d.pixels.pixel c r :=
  have ⟨hpixel, _⟩ := drawSprite_spec d x y hl
  (hpixel c r).2 h

theorem drawSprite_collision_iff {d : Display} {x y : Byte} {rows : List Byte} (hl : rows.length ≤ 15) :
    (d.drawSprite x y rows).2 = true ↔ ∃ c r, SpriteCovers x y rows c r ∧ d.pixels.pixel c r = true :=
  (drawSprite_spec d x y hl).2

/-- A sprite without rows draws nothing and meets no collision. -/
theorem drawSprite_nil (d : Display) (x y : Byte) : d.drawSprite x y [] = (d, false) := rfl

/-- On a blank grid there is no pixel a sprite could erase. -/
theorem drawSprite_collision_of_blank {d : Display} (x y : Byte) {rows : List Byte} (hl : rows.length ≤ 15)
    (hblank : ∀ c r, d.pixels.pixel c r = false) : (d.drawSprite x y rows).2 = false := by
  rw [← Bool.not_eq_true, drawSprite_collision_iff hl]
  rintro ⟨c, r, -, hon⟩
  rw [hblank] at hon
  cases hon

/-! ### Drawing twice in one place -/

/-- Drawing is its own inverse, on any grid: the second draw inverts the same pixels back. -/
theorem drawSprite_drawSprite (d : Display) (x y : Byte) {rows : List Byte} (hl : rows.length ≤ 15) :
    ((d.drawSprite x y rows).1.drawSprite x y rows).1 = d := by
  have hpixels : ((d.drawSprite x y rows).1.drawSprite x y rows).1.pixels = d.pixels := by
    refine pixel_ext fun c r => ?_
    by_cases h : SpriteCovers x y rows c r
    · rw [drawSprite_pixel_of_covers hl h, drawSprite_pixel_of_covers hl h, Bool.not_not]
    · rw [drawSprite_pixel_of_not_covers hl h, drawSprite_pixel_of_not_covers hl h]
  exact congrArg (Display.mk · d.screen d.surface) hpixels

/-- A byte other than 0 has a set bit, at some position from the left. -/
theorem exists_bit_of_ne_zero {v : Byte} (h : v ≠ 0) : ∃ b < 8, v.getLsbD (7 - b) = true := by
  by_contra! hnone
  refine h (BitVec.eq_of_getLsbD_eq fun i hi => ?_)
  have hbit := hnone (7 - i) (by omega)
  rw [show 7 - (7 - i) = i by omega] at hbit
  exact (Bool.eq_false_of_not_eq_true hbit).trans BitVec.getLsbD_zero.symm

/-- A sprite covers some pixel exactly when one of its rows has a set bit. -/
theorem exists_spriteCovers_iff (x y : Byte) (rows : List Byte) :
    (∃ c r, SpriteCovers x y rows c r) ↔ ∃ v ∈ rows, v ≠ 0 := by
  constructor
  · rintro ⟨c, r, b, k, hk, -, hbit, -⟩
    refine ⟨rows[k], List.getElem_mem hk, fun hzero => ?_⟩
    rw [hzero] at hbit
    exact Bool.false_ne_true (BitVec.getLsbD_zero.symm.trans hbit)
  · rintro ⟨v, hv, hne⟩
    obtain ⟨k, hk, rfl⟩ := List.getElem_of_mem hv
    obtain ⟨b, hb, hbit⟩ := exists_bit_of_ne_zero hne
    exact ⟨⟨_, Nat.mod_lt _ (by decide)⟩, ⟨_, Nat.mod_lt _ (by decide)⟩, b, k, hk, hb, hbit, rfl, rfl⟩

/-- Settles O51: after the first draw exactly the covered pixels are on, so the second erases them all and meets a collision
when there is one. -/
theorem spriteDrawnTwiceErasesItself : Obligations.SpriteDrawnTwiceErasesItself := by
  intro d x y rows hl hblank
  refine ⟨drawSprite_collision_of_blank x y hl hblank, drawSprite_drawSprite d x y hl, ?_⟩
  have hon : ∀ c r, SpriteCovers x y rows c r → (d.drawSprite x y rows).1.pixels.pixel c r = true := by
    intro c r h
    rw [drawSprite_pixel_of_covers hl h, hblank, Bool.not_false]
  rw [drawSprite_collision_iff hl, ← exists_spriteCovers_iff x y rows]
  exact exists_congr fun c => exists_congr fun r => and_iff_left_of_imp (hon c r)

/-! ### The instruction `Dxyn` (rules R201, R278) -/

theorem collisionFlag_toNat (b : Bool) : (collisionFlag b).toNat = if b then 1 else 0 := by
  rw [collisionFlag, flagByte_toNat, Bool.toNat, Bool.cond_eq_ite]

/-- Rule R201: `VF` receives the collision of the draw at the coordinates held before. -/
theorem drawRows_reg_flag (s : State) (x y : Reg) (rows : List Byte) :
    (s.drawRows x y rows).reg 15 = collisionFlag (s.display.drawSprite (s.reg x) (s.reg y) rows).2 :=
  setReg_next_reg_self ..

theorem drawRows_reg_of_ne (s : State) (x y : Reg) (rows : List Byte) {q : Reg} (h : q ≠ 15) :
    (s.drawRows x y rows).reg q = s.reg q :=
  setReg_next_reg_of_ne _ h

theorem drawRows_display (s : State) (x y : Reg) (rows : List Byte) :
    (s.drawRows x y rows).display = (s.display.drawSprite (s.reg x) (s.reg y) rows).1 := rfl

/-- Decision D22: a draw of no rows leaves the display and clears the flag. -/
theorem drawRows_nil (s : State) (x y : Reg) :
    (s.drawRows x y []).display = s.display ∧ (s.drawRows x y []).reg 15 = 0 := by
  rw [drawRows_display, drawRows_reg_flag, drawSprite_nil]
  exact ⟨rfl, rfl⟩

/-- Settles O52: all reads succeed and one draw follows, or the first address that does not exist is reported before the draw. -/
theorem drwDrawsTheRowsAtI : Obligations.DrwDrawsTheRowsAtI := by
  refine fun x y n s _ => ⟨fun hexist => ?drawn, fun hn hlt => ?fatal⟩
  case drawn =>
    have hread := readBytes_of_le (m := s.memory) (a := s.address 0) hexist
    refine ⟨_, _, exec_drw_of_ok x y hread, by simp, fun k hk => by simp [State.address], drawRows_display .., ?_,
      fun q => drawRows_reg_of_ne s x y _, rfl, ?_, rfl⟩
    · rw [drawRows_reg_flag, collisionFlag_toNat]
    · rintro rfl
      exact drawRows_nil s x y
  case fatal => exact exec_drw_of_error x y (readBytes_of_lt hn hlt)

/-! ### The instruction `00E0` (rules R200, R253) -/

theorem decodeWord_cls : decodeWord 0x00E0#16 = .ok .cls := decodeWord_encode (i := .cls) rfl

theorem exec_cls (s : State) : exec .cls s = .next (s.setDisplay s.display.clear).next := rfl

/-- Rule R253: after a clear every pixel is off. -/
theorem clear_pixel (d : Display) (c : Fin 64) (r : Fin 32) : d.clear.pixels.pixel c r = false := blankGrid_pixel c r

/-- Settles O49: `00E0` is one clear, which blanks the grid and shows it, and on a blank grid no draw meets a collision. -/
theorem clsTurnsEveryPixelOffAndPresents : Obligations.ClsTurnsEveryPixelOffAndPresents := by
  refine ⟨decodeWord_cls, fun s => ⟨_, exec_cls s, rfl, rfl, clear_pixel s.display, rfl, fun x y rows hl => ?_⟩⟩
  exact drawSprite_collision_of_blank x y hl (clear_pixel s.display)

end Sys2Proof.Machine

/-! PROOF. Key, timer and random instructions (rules R210 to R216): a key test of a key and of a value that is none, and the
writes of the timers and of the random byte. -/

namespace Sys2Proof.Machine

/-! ### The key skips (rules R210, R211) -/

/-- Rule R256: the test of a key is the answer of this transaction. -/
theorem keyTest_of_eq (s : State) {v : Byte} {k : Key} (h : v.toNat = k.val) :
    s.keyTest v = Config.keyDown s.inputs k := by
  rw [State.keyTest, keyOf_of_eq h]
  rfl

/-- Decision D9: a value above 15 counts as not pressed. -/
theorem keyTest_of_lt (s : State) {v : Byte} (h : 15 < v.toNat) : s.keyTest v = false := by
  rw [State.keyTest, keyOf_of_lt h]

theorem exec_skp (x : Reg) (s : State) :
    exec (.skp x) s = .next ((s.keyQueried (s.reg x)).skipIf (s.keyTest (s.reg x))) := rfl

theorem exec_sknp (x : Reg) (s : State) :
    exec (.sknp x) s = .next ((s.keyQueried (s.reg x)).skipIf (!s.keyTest (s.reg x))) := rfl

/-- Settles O53: for a key both skips turn on the one answer, for a value above 15 on no answer. -/
theorem keySkipsQueryOneKeyOnce : Obligations.KeySkipsQueryOneKeyOnce := by
  refine fun x s => ⟨fun k hk => ?key, fun hlt => ?noKey⟩
  case key =>
    have hle : (s.reg x).toNat ≤ 15 := hk ▸ Nat.le_of_lt_succ k.isLt
    rw [exec_skp, exec_sknp, keyQueried_of_le hle, keyTest_of_eq s hk]
    cases Config.keyDown s.inputs k <;> exact ⟨rfl, rfl⟩
  case noKey =>
    rw [exec_skp, exec_sknp, keyQueried_of_lt hlt, keyTest_of_lt s hlt]
    exact ⟨rfl, rfl⟩

/-! ### The timers and the random byte (rules R213 to R216) -/

/-- Settles O55: `Fx07` writes a plain destination, the other two write one timer. -/
theorem timerInstructionsReadAndWriteTheirTimer : Obligations.TimerInstructionsReadAndWriteTheirTimer :=
  fun x s => ⟨⟨(s.setReg x s.DT).next, rfl, setReg_next_reg_self s x s.DT, fun _ => setReg_next_reg_of_ne s.DT, rfl, rfl⟩,
    rfl, rfl⟩

/-- Settles O56: `Cxkk` writes a plain destination, with the conjunction of the random byte and the mask. -/
theorem rndWritesAMaskedRandomByte : Obligations.RndWritesAMaskedRandomByte := by
  intro x kk s
  have hself := setReg_next_reg_self s.answered x (s.randomByte &&& kk)
  refine ⟨(s.answered.setReg x (s.randomByte &&& kk)).next, rfl, fun b _ => ?bits, fun hkk => ?zeroMask,
    fun q hq => setReg_next_reg_of_ne (s := s.answered) _ hq, rfl⟩
  case bits =>
    rw [hself, BitVec.getLsbD_and]
    rfl
  case zeroMask =>
    rw [hself, hkk]
    exact BitVec.and_zero

end Sys2Proof.Machine

/-! PROOF. The frame scheduler (rules R230 to R239): what the end of a step does in numbers, the steps of a run that goes on,
the stop request, and the key wait as a step of its frame. -/

namespace Sys2Proof.Machine

/-! ### The end of a step (rules R232 to R234) -/

/-- Rule R234: a tick takes one from a timer, to a floor of 0. -/
theorem countDown_toNat (v : Byte) : (countDown v).toNat = v.toNat - 1 := by
  unfold countDown
  split
  case isTrue h => rw [h]; rfl
  case isFalse h => bv_omega

/-- Without a fatal error `frame_step` counts modulo N = 10; with the tenth step, and no other, the pixel grid is shown and
both timers count down; everything else is as the step left it. -/
theorem endOfStep_effect {t : State} (hf : t.fault = none) (hj : t.frameStep < 10) :
    t.endOfStep.DT.toNat = t.DT.toNat - (if t.frameStep = 9 then 1 else 0) ∧
    t.endOfStep.ST.toNat = t.ST.toNat - (if t.frameStep = 9 then 1 else 0) ∧
    t.endOfStep = { t with
      DT := t.endOfStep.DT, ST := t.endOfStep.ST, frameStep := (t.frameStep + 1) % 10,
      display := { t.display with screen := if t.frameStep = 9 then t.display.pixels else t.display.screen } } := by
  by_cases h9 : t.frameStep = 9
  · rw [endOfStep_of_last hf (by rw [h9]; decide), h9]
    exact ⟨countDown_toNat t.DT, countDown_toNat t.ST, rfl⟩
  · have hlt : t.frameStep + 1 < 10 := by omega
    rw [endOfStep_of_inner hf (Nat.not_le.mpr hlt), if_neg h9, if_neg h9, Nat.mod_eq_of_lt hlt]
    exact ⟨rfl, rfl, rfl⟩

theorem endOfStep_V (t : State) : t.endOfStep.V = t.V := by rw [endOfStep_eq]

theorem endOfStep_pc (t : State) : t.endOfStep.pc = t.pc := by rw [endOfStep_eq]

theorem endOfStep_latch (t : State) : t.endOfStep.latch = t.latch := by rw [endOfStep_eq]

theorem endOfStep_reg (t : State) (q : Reg) : t.endOfStep.reg q = t.reg q := by
  rw [State.reg, State.reg, endOfStep_V]

/-! ### The step of a live machine, and a step that leaves it live (rules R120, R239) -/

theorem initialized_frameStep (s : State) : s.initialized.frameStep = s.frameStep := by
  rw [initialized_eq]
  rfl

/-- Rule R32: an instruction leaves the count of its frame's steps to the end of the step. -/
theorem frameStep_of_exec_initialized {i : Instr} {s t : State} (h : exec i s.initialized = .next t) :
    t.frameStep = s.frameStep :=
  (exec_frameStep h).trans (initialized_frameStep s)

theorem initialized_DT (s : State) : s.initialized.DT = s.DT := by
  rw [initialized_eq]
  rfl

/-- Away from a halting frame boundary a live machine runs the instruction fetched and ends the step. -/
theorem step_of_exec {s t : State} {w : Word16} {i : Instr} (hl : s.Live) (hh : s.haltsHere = false)
    (hf : s.fetch = .ok w) (hd : decodeWord w = .ok i) (ht : exec i s.initialized = .next t) :
    step s = .next t.endOfStep := by
  rw [step_of_live hl, loopStep_of_not_halts hh, scheduledStep_of_exec ((initialized_fetch s).trans hf) hd ht]

/-- A step after which the machine is live ran an instruction without a fatal error. -/
theorem exec_of_step_live {s t : State} (h : step s = .next t) (ht : t.Live) :
    ∃ w i u, s.fetch = .ok w ∧ decodeWord w = .ok i ∧ exec i s.initialized = .next u ∧ u.fault = none ∧
      t = u.endOfStep := by
  obtain ⟨hfault, hsurface⟩ := ht
  obtain ⟨-, ⟨-, rfl⟩ | ⟨-, ⟨e, -, rfl⟩ | ⟨w, -, -, rfl⟩ | ⟨w, i, u, hf, hd, hu, rfl⟩⟩⟩ := step_cases h
  · exact absurd rfl hsurface
  · cases hfault
  · cases hfault
  · exact ⟨w, i, u, hf, hd, hu, (endOfStep_fault u).symm.trans hfault, rfl⟩

theorem live_of_step {s t : State} (h : step s = .next t) : s.Live := (step_cases h).1

/-- Settles O27: the step is the instruction and the end of step, which turns on whether this was the tenth. -/
theorem frameEndsWithOnePresentAndOneTick : Obligations.FrameEndsWithOnePresentAndOneTick := by
  intro s t w i hl hh hf hd ht hfault hj
  have hframe := frameStep_of_exec_initialized ht
  refine ⟨t.endOfStep, step_of_exec hl hh hf hd ht, fun hlt => ?inner, fun h9 => ?last⟩
  case inner =>
    have hlt' : ¬Config.stepsPerFrame ≤ t.frameStep + 1 := by
      rw [hframe]
      exact Nat.not_le.mpr (Nat.succ_lt_succ hlt)
    rw [endOfStep_of_inner hfault hlt', hframe]
    rfl
  case last =>
    obtain ⟨hDT, hST, heq⟩ := endOfStep_effect hfault (hframe.trans_lt hj)
    rw [hframe, h9] at hDT hST heq
    exact ⟨heq, hDT, hST⟩

/-! ### Runs (rules R232, R236) -/

/-- Rule R232: a step after which the machine is live is counted modulo N = 10. -/
theorem step_frameStep {s t : State} (hj : s.frameStep < 10) (h : step s = .next t) (ht : t.Live) :
    t.frameStep = (s.frameStep + 1) % 10 := by
  obtain ⟨w, i, u, -, -, hu, hfault, rfl⟩ := exec_of_step_live h ht
  have hframe := frameStep_of_exec_initialized hu
  obtain ⟨-, -, heq⟩ := endOfStep_effect hfault (hframe.trans_lt hj)
  rw [heq, hframe]

/-- Every state of a run but the last takes a step, so it is live and the count goes on from it. -/
theorem run_frameStep {k : Nat} {s t : State} (hj : s.frameStep < 10) (h : Sys2Proof.core.run k s = .next t)
    (ht : t.Live) : t.frameStep = (s.frameStep + k) % 10 := by
  induction k generalizing t with
  | zero =>
    cases h
    exact (Nat.mod_eq_of_lt hj).symm
  | succ k ih =>
    obtain ⟨u, hu, hstep⟩ := core_run_last h
    have hcount := ih hu (live_of_step hstep)
    rw [step_frameStep (by omega) hstep ht]
    omega

/-- Settles O28. -/
theorem runCountsItsStepsModuloTheFrame : Obligations.RunCountsItsStepsModuloTheFrame :=
  fun _ _ _ hj h hfault hsurface => run_frameStep hj h ⟨hfault, hsurface⟩

/-- Rule R236: the delay timer changes in a step without `Fx15` only by the tick that ends a frame. -/
theorem step_DT {s t : State} (hj : s.frameStep < 10)
    (hno : ∀ w x, s.fetch = .ok w → decodeWord w ≠ .ok (.ldDTVx x)) (h : step s = .next t) (ht : t.Live) :
    t.DT.toNat = s.DT.toNat - (if s.frameStep = 9 then 1 else 0) := by
  obtain ⟨w, i, u, hf, hd, hu, hfault, rfl⟩ := exec_of_step_live h ht
  have hframe := frameStep_of_exec_initialized hu
  have hDT : u.DT = s.initialized.DT := by
    by_contra hne
    obtain ⟨x, rfl⟩ := DT_writer hu hne
    exact hno w x hf hd
  obtain ⟨htick, -, -⟩ := endOfStep_effect hfault (hframe.trans_lt hj)
  rw [htick, hframe, hDT, initialized_DT]

/-- Settles O29, by induction on the run, whose last step is a tick exactly when it ends a frame. -/
theorem delayTimerFallsByTheFramesPassed : Obligations.DelayTimerFallsByTheFramesPassed := by
  intro k s t hj hno h hfault hsurface
  have ht : t.Live := ⟨hfault, hsurface⟩
  clear hfault hsurface
  induction k generalizing t with
  | zero =>
    cases h
    omega
  | succ k ih =>
    obtain ⟨u, hu, hstep⟩ := core_run_last h
    have hlive := live_of_step hstep
    have hcount := run_frameStep hj hu hlive
    have hsofar := ih u (fun j hjk => hno j (Nat.lt_succ_of_lt hjk)) hu hlive
    rw [step_DT (by omega) (fun w x => hno k (Nat.lt_succ_self k) u w x hu) hstep ht, hsofar]
    split <;> omega

/-! ### The stop request (rules R231, R261) -/

/-- Settles O24: at a halting frame boundary the move is the shutdown, and a machine shut down is halted. -/
theorem stopRequestEndsTheLoopAtAFrameBoundary : Obligations.StopRequestEndsTheLoopAtAFrameBoundary := by
  intro s hl hj hr
  have hh : s.haltsHere = true := by simp [State.haltsHere, hj, hr]
  have hfault : s.initialized.fault = none := (initialized_live hl).1
  refine ⟨s.initialized.shutDown, by rw [step_of_live hl, loopStep_of_halts hh], ?_, rfl, step_of_restored hfault rfl⟩
  rw [initialized_eq]
  rfl

theorem orRaise_requestStop {s : State} {i : Instr} {e : Option FatalError} {rest : State → State}
    (h : rest s.requestStop = (rest s).requestStop) :
    s.requestStop.orRaise i e rest = (s.orRaise i e rest).requestStop := by
  cases e with
  | none => exact h
  | some e => rfl

/-- No instruction reads `running`: a stop request before it is one after it. -/
theorem exec_requestStop (i : Instr) (s : State) :
    ∃ t, exec i s = .next t ∧ exec i s.requestStop = .next t.requestStop := by
  cases i
  case ret =>
    by_cases hs : s.sp.val = 0
    · exact ⟨_, exec_ret_of_empty hs, exec_ret_of_empty (s := s.requestStop) hs⟩
    · exact ⟨_, exec_ret_of_held hs, exec_ret_of_held (s := s.requestStop) hs⟩
  case call nnn =>
    by_cases hs : s.sp.val < Config.stackDepth
    · exact ⟨_, exec_call_of_free nnn hs, exec_call_of_free (s := s.requestStop) nnn hs⟩
    · exact ⟨_, exec_call_of_full nnn hs, exec_call_of_full (s := s.requestStop) nnn hs⟩
  case drw x y n =>
    cases hr : readBytes s.memory (s.address 0) n with
    | error e => exact ⟨_, exec_drw_of_error x y hr, exec_drw_of_error (s := s.requestStop) x y hr⟩
    | ok rows => exact ⟨_, exec_drw_of_ok x y hr, exec_drw_of_ok (s := s.requestStop) x y hr⟩
  case skp x | sknp x =>
    refine ⟨_, rfl, ?_⟩
    simp only [exec_skp, exec_sknp, keyQueried_eq]
    rfl
  case ldVxK x =>
    cases hl : s.latch with
    | idle =>
      cases hk : s.chosenKey with
      | none => exact ⟨_, exec_ldVxK_of_no_key x hl hk, exec_ldVxK_of_no_key (s := s.requestStop) x hl hk⟩
      | some k => exact ⟨_, exec_ldVxK_of_press x hl hk, exec_ldVxK_of_press (s := s.requestStop) x hl hk⟩
    | awaitingRelease k =>
      cases hk : s.keyPressed k with
      | true => exact ⟨_, exec_ldVxK_of_down x hl hk, exec_ldVxK_of_down (s := s.requestStop) x hl hk⟩
      | false => exact ⟨_, exec_ldVxK_of_release x hl hk, exec_ldVxK_of_release (s := s.requestStop) x hl hk⟩
  case ldB x => exact ⟨_, rfl, congrArg Host.Outcome.next (orRaise_requestStop (s := s.bcdStored x) rfl)⟩
  case storeRegs x => exact ⟨_, rfl, congrArg Host.Outcome.next (orRaise_requestStop (s := s.regsStored x) rfl)⟩
  case loadRegs x => exact ⟨_, rfl, congrArg Host.Outcome.next (orRaise_requestStop (s := s.regsLoaded x) rfl)⟩
  all_goals exact ⟨_, rfl, rfl⟩

theorem initialized_requestStop (s : State) : s.requestStop.initialized = s.initialized.requestStop := by
  by_cases hs : s.display.surface = .unprepared
  · rw [initialized_of_unprepared hs, initialized_of_unprepared (s := s.requestStop) hs]
    rfl
  · rw [initialized_of_ne hs, initialized_of_ne (s := s.requestStop) hs]

theorem endOfStep_requestStop (s : State) : s.requestStop.endOfStep = s.endOfStep.requestStop := by
  cases hf : s.fault with
  | some r => rw [endOfStep_of_fault hf, endOfStep_of_fault (s := s.requestStop) hf]
  | none =>
    by_cases hj : Config.stepsPerFrame ≤ s.frameStep + 1
    · rw [endOfStep_of_last hf hj, endOfStep_of_last (s := s.requestStop) hf hj]
      rfl
    · rw [endOfStep_of_inner hf hj, endOfStep_of_inner (s := s.requestStop) hf hj]
      rfl

/-- A stop request before a scheduled step is one after it. -/
theorem scheduledStep_requestStop (s : State) :
    ∃ t, scheduledStep s = .next t ∧ scheduledStep s.requestStop = .next t.requestStop := by
  cases hf : s.fetch with
  | error e =>
    exact ⟨_, scheduledStep_of_fetch_error hf, scheduledStep_of_fetch_error (s := s.requestStop) hf⟩
  | ok w =>
    cases hd : decodeWord w with
    | error d => exact ⟨_, scheduledStep_of_illegal hf hd, scheduledStep_of_illegal (s := s.requestStop) hf hd⟩
    | ok i =>
      obtain ⟨t, ht, ht'⟩ := exec_requestStop i s
      refine ⟨_, scheduledStep_of_exec hf hd ht, ?_⟩
      rw [scheduledStep_of_exec (s := s.requestStop) hf hd ht', endOfStep_requestStop]

/-- Rule R231: `running` is sampled at frame boundaries only. -/
theorem haltsHere_of_frameStep_ne_zero {s : State} (h : s.frameStep ≠ 0) : s.haltsHere = false := by
  simp [State.haltsHere, h]

/-- Settles O25: inside a frame `running` is not sampled, and nothing else of a step reads it. -/
theorem stopRequestInsideAFrameWaits : Obligations.StopRequestInsideAFrameWaits := by
  intro s hj
  cases hf : s.fault with
  | some r => rw [step_of_fault hf, step_of_fault (s := s.requestStop) hf]
  | none =>
    by_cases hs : s.display.surface = .restored
    · rw [step_of_restored hf hs, step_of_restored (s := s.requestStop) hf hs]
    · have hh := haltsHere_of_frameStep_ne_zero hj
      have hh' := haltsHere_of_frameStep_ne_zero (s := s.requestStop) hj
      obtain ⟨t, ht, ht'⟩ := scheduledStep_requestStop s.initialized
      rw [step_of_live ⟨hf, hs⟩, step_of_live (s := s.requestStop) ⟨hf, hs⟩, loopStep_of_not_halts hh,
        loopStep_of_not_halts hh', initialized_requestStop, ht, ht']

/-! ### The key wait as a step of its frame (rules R212, R235) -/

/-- One poll leaves `pc`, the latch and the registers alone, or takes a key, or ends the wait; of the other elements it changes
the count of inputs only. -/
theorem exec_ldVxK_effect {x : Reg} {s t : State} (h : exec (.ldVxK x) s = .next t) :
    ((t.pc = s.pc ∧ t.latch = s.latch ∧ t.V = s.V) ∨
     (t.pc = s.pc ∧ s.latch = .idle ∧ ∃ k, t.latch = .awaitingRelease k ∧ (t.reg x).toNat = k.val ∧
       ∀ q, q ≠ x → t.reg q = s.reg q) ∨
     (t.pc = s.pc + 2 ∧ s.latch ≠ .idle ∧ t.latch = .idle ∧ t.V = s.V)) ∧
    t = { s with V := t.V, pc := t.pc, latch := t.latch, inputs := s.inputs + 1 } := by
  obtain rfl | ⟨k, hl, rfl⟩ | ⟨k, hl, rfl⟩ := exec_ldVxK_cases h
  · exact ⟨.inl ⟨rfl, rfl, rfl⟩, rfl⟩
  · exact ⟨.inr (.inl ⟨rfl, hl, k, rfl, by simp, fun q hq => by simp [hq]⟩), rfl⟩
  · exact ⟨.inr (.inr ⟨rfl, by simp [hl], rfl, rfl⟩), rfl⟩

/-- Settles O30: the step is one poll and the end of step, which touches neither `pc` nor latch nor registers. -/
theorem keyWaitSuspendsOnlyTheProgramCounter : Obligations.KeyWaitSuspendsOnlyTheProgramCounter := by
  intro s w x hl hh hj hf hd
  obtain ⟨t, ht⟩ := exec_next (.ldVxK x) s.initialized
  have hstep := step_of_exec hl hh hf hd ht
  obtain ⟨d, hi⟩ : ∃ d, s.initialized = s.setDisplay d := ⟨_, initialized_eq s⟩
  rw [hi] at ht ⊢
  obtain ⟨hpoll, hframe⟩ := exec_ldVxK_effect ht
  have hcount : t.frameStep = s.frameStep := (congrArg State.frameStep hframe :)
  have hfault : t.fault = none := (congrArg State.fault hframe :).trans hl.1
  obtain ⟨hDT, hST, hend⟩ := endOfStep_effect hfault (hcount.trans_lt hj)
  obtain ⟨V, pc, latch, rfl⟩ : ∃ V pc latch, t = { s.setDisplay d with V, pc, latch, inputs := s.inputs + 1 } :=
    ⟨_, _, _, hframe⟩
  refine ⟨_, hstep, ?poll, hDT, hST, ?frame⟩
  case poll =>
    rw [endOfStep_pc, endOfStep_latch, endOfStep_V]
    simp only [endOfStep_reg]
    exact hpoll
  case frame =>
    rw [endOfStep_V, endOfStep_pc, endOfStep_latch]
    exact hend

end Sys2Proof.Machine

/-! PROOF. The capability interface (rules R252, R254): the preparation of the display and `draw_sprite`. -/

namespace Sys2Proof.Machine

/-- The end of the loop restores the surface, and any other move leaves it ready. -/
theorem step_surface {s t : State} (h : step s = .next t) :
    t.display.surface = if s.haltsHere then .restored else .ready := by
  obtain ⟨hl, ⟨hh, rfl⟩ | ⟨hh, ⟨e, -, rfl⟩ | ⟨w, -, -, rfl⟩ | ⟨w, i, u, -, -, hu, rfl⟩⟩⟩ := step_cases h <;> rw [hh]
  · rfl
  · exact initialized_surface hl
  · exact initialized_surface hl
  · exact (endOfStep_surface u).trans ((exec_surface hu).trans (initialized_surface hl))

/-- Rule R239: the preparation of the display precedes whatever else the step does. -/
theorem step_initialized {s : State} (h : s.Live) : step s.initialized = step s := by
  rw [step_of_live h, step_of_live (initialized_live h), loopStep, loopStep, initialized_initialized h]

/-- Settles O57: by the surface before the step, and the surface the step leaves. -/
theorem initializeBlanksTheDisplayOnce : Obligations.InitializeBlanksTheDisplayOnce := by
  refine fun s => ⟨fun hs => ?due, initialized_of_ne, fun hl => (step_initialized hl).symm, fun t ht => ?after⟩
  case due =>
    rw [initialized_of_unprepared hs]
    exact ⟨rfl, blankGrid_pixel⟩
  case after =>
    have hsurface := step_surface ht
    refine ⟨fun hh => ?_, fun hu => ?_⟩
    · rw [hh] at hsurface
      exact ⟨hsurface, initialized_of_ne fun hu => nomatch hsurface.symm.trans hu⟩
    · rw [hu] at hsurface
      split at hsurface <;> cases hsurface

/-- Settles O50: the covered pixels by `drawSprite_spec`; the rest of the display is not written. -/
theorem drawSpriteInvertsTheCoveredPixels : Obligations.DrawSpriteInvertsTheCoveredPixels := by
  intro d x y rows hl
  obtain ⟨hpixel, hcollision⟩ := drawSprite_spec d x y hl
  exact ⟨hpixel, hcollision, rfl⟩

end Sys2Proof.Machine

/-! PROOF. Exceptions (rules R270 to R279): which instruction raises what, and what a step that ends in a fatal error leaves. -/

namespace Sys2Proof.Machine

/-- Settles O9: the record is reported, and a machine shut down is halted. -/
theorem faultedAndEndedMachinesTakeNoStep : Obligations.FaultedAndEndedMachinesTakeNoStep :=
  ⟨fun _ _ => step_of_fault, fun _ => step_of_restored⟩

/-! ### Which instruction raises what (rule R274) -/

/-- The fatal errors of the instructions, each with what the instruction must find in `s`. -/
inductive Raises (s : State) : Instr → FatalError → Prop where
  | ret (h : s.sp.val = 0) : Raises s .ret .stackUnderflow
  | call (nnn : BitVec 12) (h : s.sp.val = 16) : Raises s (.call nnn) .stackOverflow
  | drw (x y : Reg) {n : Nat} (hn : 1 ≤ n) (h : 4096 < s.I.toNat + n) :
    Raises s (.drw x y n) (.outOfBoundsMemoryAccess (max s.I.toNat 4096))
  | ldB (x : Reg) (h : 4096 < s.I.toNat + 3) : Raises s (.ldB x) (.outOfBoundsMemoryAccess (max s.I.toNat 4096))
  | storeRegs (x : Reg) (h : 4096 < s.I.toNat + (x.val + 1)) :
    Raises s (.storeRegs x) (.outOfBoundsMemoryAccess (max s.I.toNat 4096))
  | loadRegs (x : Reg) (h : 4096 < s.I.toNat + (x.val + 1)) :
    Raises s (.loadRegs x) (.outOfBoundsMemoryAccess (max s.I.toNat 4096))

/-- Rules R274, R278: an instruction raises nothing, or one of its own errors after it has changed no more than registers and
memory. -/
theorem exec_raises (i : Instr) {s : State} (hs : s.fault = none) : ∃ t, exec i s = .next t ∧
    (t.fault = none ∨
      ∃ e, Raises s i e ∧ t = { s with V := t.V, memory := t.memory, fault := some ⟨e, s.pc, some (encode i)⟩ }) := by
  cases i
  case ret =>
    by_cases hsp : s.sp.val = 0
    · exact ⟨_, exec_ret_of_empty hsp, .inr ⟨_, .ret hsp, rfl⟩⟩
    · exact ⟨_, exec_ret_of_held hsp, .inl hs⟩
  case call nnn =>
    by_cases hsp : s.sp.val < Config.stackDepth
    · exact ⟨_, exec_call_of_free nnn hsp, .inl hs⟩
    · have hfull : s.sp.val = 16 := Nat.le_antisymm (Nat.le_of_lt_succ s.sp.isLt) (Nat.le_of_not_lt hsp)
      exact ⟨_, exec_call_of_full nnn hsp, .inr ⟨_, .call nnn hfull, rfl⟩⟩
  case drw x y n =>
    by_cases hn : n = 0 ∨ s.address 0 + n ≤ Config.memSize
    · exact ⟨_, exec_drw_of_ok x y (readBytes_of_le hn), .inl hs⟩
    · obtain ⟨hn, hle⟩ := not_or.mp hn
      have hlt := Nat.lt_of_not_le hle
      exact ⟨_, exec_drw_of_error x y (readBytes_of_lt hn hlt),
        .inr ⟨_, .drw x y (Nat.one_le_iff_ne_zero.mpr hn) hlt, rfl⟩⟩
  case ldB x =>
    obtain ha | ha := Nat.lt_or_ge (s.address 2) Config.memSize
    · exact ⟨_, exec_ldB_of_lt ha, .inl hs⟩
    · exact ⟨_, exec_ldB_of_le ha, .inr ⟨_, .ldB x (Nat.lt_succ_of_le ha), rfl⟩⟩
  case storeRegs x =>
    obtain ha | ha := Nat.lt_or_ge (s.address x.val) Config.memSize
    · exact ⟨_, exec_storeRegs_of_lt ha, .inl hs⟩
    · exact ⟨_, exec_storeRegs_of_le ha, .inr ⟨_, .storeRegs x (Nat.lt_succ_of_le ha), rfl⟩⟩
  case loadRegs x =>
    obtain ha | ha := Nat.lt_or_ge (s.address x.val) Config.memSize
    · exact ⟨_, exec_loadRegs_of_lt ha, .inl hs⟩
    · exact ⟨_, exec_loadRegs_of_le ha, .inr ⟨_, .loadRegs x (Nat.lt_succ_of_le ha), rfl⟩⟩
  all_goals
    obtain ⟨t, ht⟩ := exec_next _ s
    exact ⟨t, ht, .inl ((congrArg State.fault (exec_writesOnly ht) :).trans hs)⟩

/-- Settles O11: every instruction answers a next state, and the errors are those of `Raises`. -/
theorem whichInstructionRaisesWhat : Obligations.WhichInstructionRaisesWhat := by
  intro i s hs
  obtain ⟨t, ht, hraise⟩ := exec_raises i hs
  refine ⟨t, ht, hraise.imp_right ?_⟩
  rintro ⟨e, he, heq⟩
  refine ⟨e, congrArg State.fault heq, ?_⟩
  cases he with
  | ret h => exact .inl ⟨rfl, h, rfl⟩
  | call nnn h => exact .inr (.inl ⟨⟨nnn, rfl⟩, h, rfl⟩)
  | drw x y hn h => exact .inr (.inr ⟨_, h, rfl, .inl ⟨x, y, rfl, hn⟩⟩)
  | ldB x h => exact .inr (.inr ⟨_, h, rfl, .inr (.inl ⟨x, rfl, rfl⟩)⟩)
  | storeRegs x h => exact .inr (.inr ⟨_, h, rfl, .inr (.inr ⟨x, .inl rfl, rfl⟩)⟩)
  | loadRegs x h => exact .inr (.inr ⟨_, h, rfl, .inr (.inr ⟨x, .inr rfl, rfl⟩)⟩)

/-! ### The state a fatal error leaves (rules R238, R275, R278) -/

/-- Settles O10: a fatal step is a failed fetch, an illegal word or an instruction that raises, and in none of them does the end
of the step do anything. -/
theorem fatalErrorLeavesTheMachineAtItsInstruction : Obligations.FatalErrorLeavesTheMachineAtItsInstruction := by
  intro s t r h hr
  obtain ⟨hl, hcases⟩ := step_cases h
  obtain ⟨d, hi⟩ : ∃ d, s.initialized = s.setDisplay d := ⟨_, initialized_eq s⟩
  rw [hi] at hcases ⊢
  have hs : (s.setDisplay d).fault = none := hl.1
  obtain ⟨-, rfl⟩ | ⟨-, ⟨e, hf, rfl⟩ | ⟨w, hf, -, rfl⟩ | ⟨w, i, u, hf, hd, hu, rfl⟩⟩ := hcases
  case inl => cases hs.symm.trans hr
  case inr.inl =>
    cases hr
    exact ⟨rfl, rfl, nofun, fun _ => ⟨e, hf, rfl⟩⟩
  case inr.inr.inl =>
    cases hr
    exact ⟨rfl, rfl, fun _ hw => Option.some.inj hw ▸ hf, nofun⟩
  case inr.inr.inr =>
    have hur : u.fault = some r := (endOfStep_fault u).symm.trans hr
    obtain ⟨u', hu', hraise⟩ := exec_raises i hs
    cases hu.symm.trans hu'
    obtain hnone | ⟨e, -, heq⟩ := hraise
    · cases hnone.symm.trans hur
    · cases (congrArg State.fault heq).symm.trans hur
      rw [endOfStep_of_fault hur]
      refine ⟨rfl, heq, fun _ hw => ?_, nofun⟩
      obtain ⟨hword, -⟩ := encode_of_decodeWord hd
      rw [← Option.some.inj hw, hword]
      exact hf

end Sys2Proof.Machine
